-- ==== Sys2Proof/Word.lean ====
section
/-! DEFINITION. The words the block handles: bytes, segment patterns, and the three operation
words of `30_encoding.md` (rules R10, R61, R65, R68, R69). -/

namespace Sys2Proof

/-- A byte, bit 7 most significant (R10). -/
abbrev Byte := BitVec 8

/-- The seven segment bits `s = b[6:0]` of a segment byte (R61). -/
abbrev Pattern := BitVec 7

/-- A word of format SP: sess_clear, rx_valid and rx_data, most significant first (R68). -/
abbrev SyncWord := BitVec 10

/-- A word of format RP: relay_we and relay_on, most significant first (R69). -/
abbrev RelayWord := BitVec 2

/-- The six bytes of format HF as one number, the first byte in the top bits (R65). -/
abbrev FrameWord := BitVec 48

end Sys2Proof
end

