-- ==== Sys2Proof/Config.lean ====
section
/-! DEFINITION. The kind of thing the parameter SEGTAB is (`00_scope.md` rule R7): a table from segment
patterns to digits, and the constraints every admissible table meets.  Every operation of the model
that decodes a segment byte takes the table as an argument.  The values in force (the default table,
the frame constants, the relay level) stand in `Machine/Params.lean`. -/

namespace Sys2Proof

/-- What a segment pattern can mean (R7, R90): one of the digits 0 to 9, the blank display (the
source's value 10), or an unrecognised pattern (the source's value -1).  A pattern that is no entry of
the table is unrecognised, so constraint (c) of R7 is built into the type. -/
inductive Digit where
  | digit (n : Fin 10)
  | blank
  | unrecognised
  deriving DecidableEq, Repr

/-- The parameter SEGTAB (R7). -/
abbrev SegTab := Pattern → Digit

/-- The table with the given entries; a pattern with no entry is unrecognised (R7 (c), R94). -/
def SegTab.ofRows : List (Pattern × Digit) → SegTab
  | [], _ => .unrecognised
  | (p, g) :: rows, s => if s = p then g else SegTab.ofRows rows s

/-- The constraints of R7: (a) no segment lit is blank; (b) every digit has a pattern; (d) nothing else
is blank and no digit has two patterns.  (a) to (c) are the source's, (d) is the spec's (D3). -/
structure SegTab.Admissible (t : SegTab) : Prop where
  zero_blank : t 0#7 = .blank
  digit_present : ∀ n : Fin 10, ∃ s, t s = .digit n
  only_zero_blank : ∀ s, t s = .blank → s = 0#7
  digit_unique : ∀ s s' n, t s = .digit n → t s' = .digit n → s = s'

end Sys2Proof
end

