-- ==== Sys2Proof/Syntax.lean ====
section
/-! DEFINITION. The operations of the block (`30_encoding.md` rule R60), one constructor per row of
`opcode_table.json`; the words that select them at the block's ports; and the two ways the host presents
something to the block: one operation word, or all input pins of one clock cycle (`10_state.md` rule
R28). -/

namespace Sys2Proof

/-- One constructor per row of the opcode table. -/
inductive Instr where
  /-- DEC b: decode one segment byte at the decoder port (R90). -/
  | dec (b : Byte)
  /-- SEG.BLANK: the segment byte with no segment lit and point `p` (R93). -/
  | segBlank (p : Bool)
  /-- SEG.0 to SEG.9: the segment byte of a digit in the default SEGTAB, with point `p` (R63). -/
  | seg0 (p : Bool)
  | seg1 (p : Bool)
  | seg2 (p : Bool)
  | seg3 (p : Bool)
  | seg4 (p : Bool)
  | seg5 (p : Bool)
  | seg6 (p : Bool)
  | seg7 (p : Bool)
  | seg8 (p : Bool)
  | seg9 (p : Bool)
  /-- SEG.INVALID: a segment byte whose pattern no other SEG.* row has (R94). -/
  | segInvalid (p : Bool) (s : Pattern)
  /-- CLR: start of a read session (R111). -/
  | clr
  /-- PUSH b: ingest one byte (R113). -/
  | push (b : Byte)
  /-- SNOP: no byte this step (R112). -/
  | snop
  /-- RSET on: set both relays (R141). -/
  | rset (on : Bool)
  /-- RNOP: no relay operation this step (R144). -/
  | rnop
  /-- RESET, the `rst` pin (R210). -/
  | reset
  /-- HF.HEIGHT: the six bytes of a height frame, pushed one after the other (R65, R77 FRAME). -/
  | hfHeight (d1 d2 d3 : Byte)
  deriving DecidableEq, Repr

/-- The three units of the block, and the `rst` pin that acts on two of them (R60). -/
inductive HwUnit where
  | decoder
  | synchronizer
  | relay
  | resetPin
  deriving DecidableEq, Repr

/-- The unit an operation is presented to (R60). -/
def Instr.unit : Instr → HwUnit
  | .dec _ | .segBlank _ | .seg0 _ | .seg1 _ | .seg2 _ | .seg3 _ | .seg4 _ | .seg5 _ | .seg6 _
  | .seg7 _ | .seg8 _ | .seg9 _ | .segInvalid _ _ => .decoder
  | .clr | .push _ | .snop | .hfHeight _ _ _ => .synchronizer
  | .rset _ | .rnop => .relay
  | .reset => .resetPin

/-- A word as presented at one port of the block (R60, R76).  `dec` and `sb` are the same byte on
`seg_in`: `dec` is read as the operation DEC of R60, `sb` by the SEG.* rows of the opcode table
(notes/assumptions/3.md). -/
inductive OpWord where
  | dec (b : Byte)
  | sb (b : Byte)
  | sp (w : SyncWord)
  | rp (w : RelayWord)
  | rst (w : BitVec 1)
  | hf (w : FrameWord)
  deriving DecidableEq, Repr

/-- The port a word is presented at (R60). -/
def OpWord.unit : OpWord → HwUnit
  | .dec _ | .sb _ => .decoder
  | .sp _ | .hf _ => .synchronizer
  | .rp _ => .relay
  | .rst _ => .resetPin

/-- The input pins of one clock cycle, `clk` apart (R28). -/
structure Pins where
  rst : Bool
  sessClear : Bool
  rxValid : Bool
  rxData : Byte
  relayWe : Bool
  relayOn : Bool
  segIn : Byte
  deriving DecidableEq, Repr

/-- One move of the host (R155): one operation, or one whole clock cycle at the pins. -/
inductive Stimulus where
  | op (w : OpWord)
  | cycle (p : Pins)
  deriving DecidableEq, Repr

end Sys2Proof
end

