-- ==== Sys2Proof/Machine/State.lean ====
section
/-! DEFINITION. The state of the machine as plain data: the seven items of `10_state.md` rule R20 (five
window slots, two relay bits), and beside them three fields of the model's own that carry the block's
inputs and outputs across the step interface: what the host presents next, and what the last step put
on the event and decoder outputs (notes/assumptions/2.md). -/

namespace Sys2Proof.Machine

/-- A window slot: EMPTY, or a byte (R11, R20).  EMPTY is the spec's own value of a slot. -/
abbrev Slot := Option Byte

/-- The five window slots, `w0` the most recently pushed byte, `w4` the oldest kept (R21). -/
structure Window where
  w0 : Slot
  w1 : Slot
  w2 : Slot
  w3 : Slot
  w4 : Slot
  deriving DecidableEq, Repr

/-- All slots EMPTY (R29, R111). -/
def Window.empty : Window := ⟨none, none, none, none, none⟩

/-- What one evaluation of DEC returns: the digit and the decimal-point flag (R90). -/
structure Decoded where
  digit : Digit
  point : Bool
  deriving DecidableEq, Repr

/-- What a HEIGHT event carries (R71, R119): the three digits, their point bits, the number `N` and the
combined decimal flag. -/
structure HeightReport where
  g1 : Fin 10
  g2 : Fin 10
  g3 : Fin 10
  p1 : Bool
  p2 : Bool
  p3 : Bool
  n : Nat
  dp : Bool
  deriving DecidableEq, Repr

/-- What the synchronizer reports for one pushed byte (R70, R110). -/
inductive Event where
  /-- NONE: no frame yet. -/
  | none
  /-- HEIGHT: a valid height frame. -/
  | height (r : HeightReport)
  /-- BLANK: a blank display. -/
  | blank
  /-- INVALID: a height frame with an undecodable digit. -/
  | invalid
  deriving DecidableEq, Repr

/-- The machine's state. -/
structure State where
  /-- `W[0..4]` of the synchronizer (R20, R21). -/
  win : Window
  /-- `R1` of the relay driver, true = ON (R23). -/
  r1 : Bool
  /-- `R2` of the relay driver, true = ON (R23). -/
  r2 : Bool
  /-- The model's own: what the host presents in the steps to come, the next one first (R155). -/
  pending : List Stimulus
  /-- The model's own: the events output in the last step, in order; one per byte pushed (R110). No
  step reads it (R127, R218). -/
  events : List Event
  /-- The model's own: what the decoder port showed in the last step, if a byte was presented there
  (R97). No step reads it. -/
  seg : Option Decoded
  deriving DecidableEq, Repr

/-- Reasons for a fault.  There is none: "The block raises no exception, takes no trap, has no fault
state and never stops" (R180). -/
inductive Fault where
  deriving DecidableEq, Repr

/-- Reasons for a refusal. -/
inductive Refusal where
  /-- Raised by `exec` alone, for an instruction that has no meaning yet; no instruction is left in this
  case. Safe: the machine stops where the hardware goes on. -/
  | notModelled (mnemonic : String)
  deriving DecidableEq, Repr

/-- The state right after RESET (R29): every slot EMPTY, both relays OFF; nothing presented, nothing on
the outputs (R212, and notes/assumptions/2.md for the model's own fields). -/
def State.reset : State :=
  { win := Window.empty, r1 := false, r2 := false, pending := [], events := [], seg := none }

end Sys2Proof.Machine
end

