-- ==== Sys2Proof/Machine/Flags.lean ====
section
/-! DEFINITION. The values computed within one step and stored nowhere (`10_state.md` rule R26): the
height number and the combined decimal flag (R117, R118), and the codes the outputs carry (R64, R70,
R71, R72). -/

namespace Sys2Proof.Machine

/-- `N = 100*g1 + 10*g2 + g3` (R117). -/
def heightNumber (g1 g2 g3 : Fin 10) : Nat := 100 * g1.val + 10 * g2.val + g3.val

/-- `dp = p1 | p2 | p3` (R118). -/
def combinedPoint (p1 p2 p3 : Bool) : Bool := p1 || p2 || p3

/-- The report of three digits and their point bits (R117, R118, R119). -/
def heightReport (g1 g2 g3 : Fin 10) (p1 p2 p3 : Bool) : HeightReport :=
  { g1, g2, g3, p1, p2, p3, n := heightNumber g1 g2 g3, dp := combinedPoint p1 p2 p3 }

/-- The digit as the source's number: 0 to 9, 10 for blank, -1 for unrecognised (R90). -/
def digitValue : Digit → Int
  | .digit n => n.val
  | .blank => 10
  | .unrecognised => -1

/-- The 4-bit code of a digit on an output (R64). -/
def digitCode : Digit → BitVec 4
  | .digit n => BitVec.ofNat 4 n.val
  | .blank => 0xA#4
  | .unrecognised => 0xF#4

/-- The event kind code (R70). -/
def eventKind : Event → BitVec 2
  | .none => 0#2
  | .height _ => 1#2
  | .blank => 2#2
  | .invalid => 3#2

/-- The report an event carries; only HEIGHT carries one (R119, R120). -/
def eventReport : Event → Option HeightReport
  | .height r => some r
  | .none | .blank | .invalid => Option.none

/-- The 26 bits below the kind of an event word for a HEIGHT event, most significant first (R71). -/
def reportBits (r : HeightReport) : BitVec 26 :=
  BitVec.ofNat 10 r.n ++ BitVec.ofBool r.dp ++ BitVec.ofNat 4 r.g1.val ++ BitVec.ofNat 4 r.g2.val
    ++ BitVec.ofNat 4 r.g3.val ++ BitVec.ofBool r.p1 ++ BitVec.ofBool r.p2 ++ BitVec.ofBool r.p3

/-- The 28-bit event word (R71): the kind, and below it the report's fields or 0. -/
def eventWord (e : Event) : BitVec 28 :=
  match eventReport e with
  | some r => eventKind e ++ reportBits r
  | Option.none => eventKind e ++ 0#26

/-- The HeightValue a report stands for, `N / 10^dp` (R72).  The block outputs the pair and never
divides; this says what the pair means. -/
def heightValue (r : HeightReport) : Rat := if r.dp then (r.n : Rat) / 10 else (r.n : Rat)

end Sys2Proof.Machine
end

