-- ==== Sys2Proof/Machine/Params.lean ====
section
/-! DEFINITION. The parameter values in force: the frame constants of `00_scope.md` rule R6, the default
value of SEGTAB (`30_encoding.md` rule R63, equal to the SEG.* rows of `opcode_table.json`), and the
default of RELAY_ACTIVE_LEVEL (R8). -/

namespace Sys2Proof.Machine

/-- The byte that marks the start of a height frame (R6). -/
def sentinel : Byte := 0x9B#8

/-- The value the LEN byte of a height frame must have (R6). -/
def hfLen : Byte := 0x07#8

/-- The value the TYPE byte of a height frame must have (R6). -/
def hfType : Byte := 0x12#8

/-- The eleven entries of the default SEGTAB (R63).  UNVERIFIED, from the spec's general knowledge but
for the blank row, see notes/assumptions/1.md. Unsafe. -/
def segRows : List (Pattern × Digit) :=
  [ (0x00#7, .blank),
    (0x3F#7, .digit 0), (0x06#7, .digit 1), (0x5B#7, .digit 2), (0x4F#7, .digit 3),
    (0x66#7, .digit 4), (0x6D#7, .digit 5), (0x7D#7, .digit 6), (0x07#7, .digit 7),
    (0x7F#7, .digit 8), (0x6F#7, .digit 9) ]

/-- The table in force (R7, R63). -/
def segTab : SegTab := SegTab.ofRows segRows

/-- The 128 segment patterns. -/
def allPatterns : List Pattern := (List.range 128).map (BitVec.ofNat 7)

/-- The pattern a table has for a digit or for blank: the one of that digit's SEG.* row ("with another
SEGTAB only those rows change", `opcode_table.json`), and the `E` of R77 with the point off.  In an
admissible table there is exactly one; 0x00 stands for a missing one, which R7 excludes. -/
def rowPattern (t : SegTab) (g : Digit) : Pattern :=
  (allPatterns.find? fun s => t s = g).getD 0x00#7

/-- RELAY_ACTIVE_LEVEL, the electrical level that means ON: OPEN, default 1 (R8, D16).  Only the pin
view of `Ports.lean` reads it, and takes it as an argument. -/
def relayActiveLevel : Bool := true

end Sys2Proof.Machine
end

