-- ==== Sys2Proof/WellFormed.lean ====
section
/-! DEFINITION. Which terms of `Instr` are operations of the table.  Every operand of every row takes
every value, but for SEG.INVALID: its pattern is one that no other SEG.* row has (R94). -/

namespace Sys2Proof

/-- The one check, for a given SEGTAB: the pattern of SEG.INVALID is in no row with a digit or blank (R94). -/
def Instr.wfWith (t : SegTab) : Instr → Bool
  | .segInvalid _ s => t s = .unrecognised
  | .dec _ | .segBlank _ | .seg0 _ | .seg1 _ | .seg2 _ | .seg3 _ | .seg4 _ | .seg5 _ | .seg6 _
  | .seg7 _ | .seg8 _ | .seg9 _ | .clr | .push _ | .snop | .rset _ | .rnop | .reset
  | .hfHeight _ _ _ => true

/-- Well-formed under the table in force. -/
def Instr.wf (i : Instr) : Bool := i.wfWith Machine.segTab

end Sys2Proof
end

