-- ==== Sys2Proof/Decode.lean ====
section
/-! DEFINITION. From the words at the block's ports to operations and back, by the formats of
`30_encoding.md`: SB (R61, R63), HF (R65), SP (R68), RP (R69) and the `rst` pin (R210).  Every byte,
every SP word and every RP word is an operation (R74); only two words are rejected, both by name: a low
`rst` pin, and six bytes that do not begin with the header of a height frame.  What reads or writes a
SEG.* row takes SEGTAB as an argument (R7); `decode` and `encode` are at the table in force. -/

namespace Sys2Proof

/-- Why a word selects no operation. -/
inductive Reject where
  /-- The `rst` pin is 0: no RESET is selected (R60, R210). -/
  | rstLow
  /-- Six bytes that are not a height frame; they carry the six bytes on (R67). -/
  | notHeightFrame (w : FrameWord)
  deriving DecidableEq, Repr

/-- The decimal-point bit of a segment byte, `b[7]` (R61, R91). -/
def pointBit (b : Byte) : Bool := b.getLsbD 7

/-- The segment pattern of a segment byte, `b[6:0]` (R61, R91). -/
def patternBits (b : Byte) : Pattern := b.extractLsb' 0 7

/-- A segment byte put together from its two fields (R61). -/
def segByte (p : Bool) (s : Pattern) : Byte := BitVec.ofBool p ++ s

/-- The SEG.* row of a digit (R63). -/
def segOfDigit (p : Bool) : Fin 10 → Instr
  | 0 => .seg0 p
  | 1 => .seg1 p
  | 2 => .seg2 p
  | 3 => .seg3 p
  | 4 => .seg4 p
  | 5 => .seg5 p
  | 6 => .seg6 p
  | 7 => .seg7 p
  | 8 => .seg8 p
  | 9 => .seg9 p

/-- The SEG.* row a segment byte falls under (R63, R93, R94). -/
def decodeSBWith (t : SegTab) (b : Byte) : Instr :=
  match t (patternBits b) with
  | .digit n => segOfDigit (pointBit b) n
  | .blank => .segBlank (pointBit b)
  | .unrecognised => .segInvalid (pointBit b) (patternBits b)

/-- The SEG.* row of a segment byte under the table in force. -/
def decodeSB (b : Byte) : Instr := decodeSBWith Machine.segTab b

/-- Format SP (R68): `sess_clear` wins over `rx_valid` (R122), and the fields an operation does not
use are ignored (R74 (c)). -/
def decodeSP (w : SyncWord) : Instr :=
  if w.getLsbD 9 then .clr
  else if w.getLsbD 8 then .push (w.extractLsb' 0 8)
  else .snop

/-- Format RP (R69): `relay_on` is ignored when `relay_we` is 0 (R74 (d)). -/
def decodeRP (w : RelayWord) : Instr :=
  if w.getLsbD 1 then .rset (w.getLsbD 0) else .rnop

/-- The six bytes of an HF word in arrival order, the first in the top bits (R65). -/
def frameBytes (w : FrameWord) : List Byte :=
  [w.extractLsb' 40 8, w.extractLsb' 32 8, w.extractLsb' 24 8,
   w.extractLsb' 16 8, w.extractLsb' 8 8, w.extractLsb' 0 8]

/-- Format HF (R65): the sentinel, LEN and TYPE must match, the digit bytes are any bytes. -/
def decodeHF (w : FrameWord) : Except Reject Instr :=
  if w.extractLsb' 40 8 = Machine.sentinel ∧ w.extractLsb' 32 8 = Machine.hfLen
      ∧ w.extractLsb' 24 8 = Machine.hfType then
    .ok (.hfHeight (w.extractLsb' 16 8) (w.extractLsb' 8 8) (w.extractLsb' 0 8))
  else
    .error (.notHeightFrame w)

/-- The operation a word selects at its port (R60). -/
def decodeWith (t : SegTab) : OpWord → Except Reject Instr
  | .dec b => .ok (.dec b)
  | .sb b => .ok (decodeSBWith t b)
  | .sp w => .ok (decodeSP w)
  | .rp w => .ok (decodeRP w)
  | .rst w => if w.getLsbD 0 then .ok .reset else .error .rstLow
  | .hf w => decodeHF w

/-- The operation a word selects at its port under the table in force. -/
def decode (w : OpWord) : Except Reject Instr := decodeWith Machine.segTab w

/-- The canonical word of an operation (R63, R65, R68, R69, R76); ignored fields are 0. -/
def encodeWith (t : SegTab) : Instr → OpWord
  | .dec b => .dec b
  | .segBlank p => .sb (segByte p (Machine.rowPattern t .blank))
  | .seg0 p => .sb (segByte p (Machine.rowPattern t (.digit 0)))
  | .seg1 p => .sb (segByte p (Machine.rowPattern t (.digit 1)))
  | .seg2 p => .sb (segByte p (Machine.rowPattern t (.digit 2)))
  | .seg3 p => .sb (segByte p (Machine.rowPattern t (.digit 3)))
  | .seg4 p => .sb (segByte p (Machine.rowPattern t (.digit 4)))
  | .seg5 p => .sb (segByte p (Machine.rowPattern t (.digit 5)))
  | .seg6 p => .sb (segByte p (Machine.rowPattern t (.digit 6)))
  | .seg7 p => .sb (segByte p (Machine.rowPattern t (.digit 7)))
  | .seg8 p => .sb (segByte p (Machine.rowPattern t (.digit 8)))
  | .seg9 p => .sb (segByte p (Machine.rowPattern t (.digit 9)))
  | .segInvalid p s => .sb (segByte p s)
  | .clr => .sp 0x200#10
  | .push b => .sp (0b01#2 ++ b)
  | .snop => .sp 0x000#10
  | .rset on => .rp (0b1#1 ++ BitVec.ofBool on)
  | .rnop => .rp 0b00#2
  | .reset => .rst 0b1#1
  | .hfHeight d1 d2 d3 =>
    .hf (Machine.sentinel ++ Machine.hfLen ++ Machine.hfType ++ d1 ++ d2 ++ d3)

/-- The canonical word of an operation under the table in force. -/
def encode (i : Instr) : OpWord := encodeWith Machine.segTab i

/-- The synchronizer's pins of a cycle as a word of format SP (R68). -/
def Pins.sp (p : Pins) : SyncWord :=
  BitVec.ofBool p.sessClear ++ (BitVec.ofBool p.rxValid ++ p.rxData)

/-- The relay driver's pins of a cycle as a word of format RP (R69). -/
def Pins.rp (p : Pins) : RelayWord := BitVec.ofBool p.relayWe ++ BitVec.ofBool p.relayOn

/-- The operations a cycle's pins select at the two stateful units (R28, R60): RESET alone when `rst` is
1 (R185 (1)), else one operation of the synchronizer and one of the relay driver. -/
def Pins.ops (p : Pins) : List Instr :=
  if p.rst then [.reset] else [decodeSP p.sp, decodeRP p.rp]

/-- The word a row of the opcode table stands for, from its number of bits and its value.  A number
alone does not say at which port it stands, and three formats fit in one byte, so one byte is read as SB
when its pattern has a SEG.* row, else as RESET (value 1), RSET (values 2 and 3), and else as SB
(DESIGN CHOICE, notes/assumptions/4.md: it serves `decodeTableWord` alone). -/
def tableOpWord (nbits w : Nat) : Option OpWord :=
  match nbits with
  | 1 => if w < 2 then some (.rst (BitVec.ofNat 1 w)) else none
  | 2 => if w < 4 then some (.rp (BitVec.ofNat 2 w)) else none
  | 8 =>
    if 256 ≤ w then none
    else if w = 1 then some (.rst 0b1#1)
    else if w = 2 then some (.rp 0b10#2)
    else if w = 3 then some (.rp 0b11#2)
    else some (.sb (BitVec.ofNat 8 w))
  | 10 => if w < 1024 then some (.sp (BitVec.ofNat 10 w)) else none
  | 16 => if w < 1024 then some (.sp (BitVec.ofNat 10 w)) else none
  | 48 => if w < 2 ^ 48 then some (.hf (BitVec.ofNat 48 w)) else none
  | _ => none

/-- The instruction the decoder reads from a table word (the host's question about each row). -/
def decodeTableWord (nbits w : Nat) : Option Instr :=
  match tableOpWord nbits w with
  | some ow => (decode ow).toOption
  | none => none

end Sys2Proof
end

