-- ==== Sys2Proof/Machine/Operands.lean ====
section
/-! DEFINITION. How operands are taken from the formats and from the window (`30_encoding.md` rule R73,
`20_memory.md` rule R46). -/

namespace Sys2Proof.Machine

/-- The window slot at a position, `W[k]` (R21, R46). -/
def Window.slot (w : Window) : Fin 5 → Slot
  | 0 => w.w0
  | 1 => w.w1
  | 2 => w.w2
  | 3 => w.w3
  | 4 => w.w4

/-- A digit slot as a byte (R115).  In a state a run reaches, a digit slot holds a byte whenever the
recognition condition holds (R24 (a)); an EMPTY one, which no run shows, reads as 0x00, the fill R32
allows (DESIGN CHOICE, notes/assumptions/5.md, safe). -/
def slotByte (s : Slot) : Byte := s.getD 0x00#8

/-- D1, the hundreds digit byte, is `W[1]` (R115). -/
def hundredsByte (w : Window) : Byte := slotByte w.w1

/-- D2, the tens digit byte, is `W[0]` (R115). -/
def tensByte (w : Window) : Byte := slotByte w.w0

end Sys2Proof.Machine
end

