-- ==== Sys2Proof/Machine/Ops.lean ====
section
/-! DEFINITION. The named operations every meaning is made of: decoding a segment byte, recognising and
classifying a frame, shifting the window, writing the relay pair, resetting.  Each that decodes takes the
table SEGTAB as an argument (R7).  There is no operation for taking an exception: the block has none, and
an event "saves no state, changes no mode, masks nothing and redirects nothing" (R180, R186). -/

namespace Sys2Proof.Machine

/-- DEC (R90): the digit the table gives `b[6:0]`, and `b[7]`. -/
def decSeg (t : SegTab) (b : Byte) : Decoded := ⟨t (patternBits b), pointBit b⟩

/-- The recognition condition on the window before the shift (R114); an EMPTY slot equals no byte. -/
def fires (w : Window) : Bool :=
  w.w4 == some sentinel && w.w3 == some hfLen && w.w2 == some hfType

/-- The classification of a recognised frame, the tests in the order of R116. -/
def classify (t : SegTab) (d1 d2 d3 : Byte) : Event :=
  if d1 = 0x00#8 then .blank
  else match (decSeg t d1).digit, (decSeg t d2).digit, (decSeg t d3).digit with
    | .unrecognised, _, _ => .invalid
    | _, .unrecognised, _ => .invalid
    | _, _, .unrecognised => .invalid
    | .digit g1, .digit g2, .digit g3 =>
      .height (heightReport g1 g2 g3 (pointBit d1) (pointBit d2) (pointBit d3))
    | _, _, _ => .blank

/-- The event of pushing `b` on window `w` (R113 parts 1 and 2). -/
def pushEvent (t : SegTab) (w : Window) (b : Byte) : Event :=
  if fires w then classify t (hundredsByte w) (tensByte w) b else .none

/-- The shift (R121): every slot moves one place back, all at once; the old `W[4]` is lost. -/
def Window.shift (w : Window) (b : Byte) : Window := ⟨some b, w.w0, w.w1, w.w2, w.w3⟩

/-- Nothing on the event and decoder outputs: what a step starts from, since an event is not held
beyond its step (R127, R218). -/
def State.quiet (s : State) : State := { s with events := [], seg := none }

/-- One PUSH (R113): the event is output, and the window shifts whatever the event was. -/
def State.pushByte (t : SegTab) (b : Byte) (s : State) : State :=
  { s with win := s.win.shift b, events := s.events ++ [pushEvent t s.win b] }

/-- Several PUSHes, one after the other (R77 BYTES). -/
def State.pushBytes (t : SegTab) : List Byte → State → State
  | [], s => s
  | b :: bs, s => State.pushBytes t bs (s.pushByte t b)

/-- All five slots to EMPTY (R111). -/
def State.clearWindow (s : State) : State := { s with win := Window.empty }

/-- Both relay bits to one value in the same step (R141). -/
def State.setRelays (on : Bool) (s : State) : State := { s with r1 := on, r2 := on }

/-- The seven items to their reset values (R29, R210). -/
def State.resetBlock (s : State) : State := { s with win := Window.empty, r1 := false, r2 := false }

/-- The decoder port shows what DEC gives for `b` (R97). -/
def State.showDec (t : SegTab) (b : Byte) (s : State) : State := { s with seg := some (decSeg t b) }

end Sys2Proof.Machine
end

