-- ==== Sys2Proof/Machine/Ports.lean ====
section
/-! DEFINITION. The port-level reading of the block: the output pins (`10_state.md` rule R30), and the
state after one clock cycle with given input pins (R28), by the priorities of `60_exceptions.md` rule
R185.  It is written from the pins, not from the operations; that the two readings agree is a statement. -/

namespace Sys2Proof.Machine

/-- The output pins of the block (R30). -/
structure Outputs where
  evtValid : Bool
  evtKind : BitVec 2
  evtN : BitVec 10
  evtDp : Bool
  evtG1 : BitVec 4
  evtG2 : BitVec 4
  evtG3 : BitVec 4
  evtP1 : Bool
  evtP2 : Bool
  evtP3 : Bool
  relay1 : Bool
  relay2 : Bool
  segDigit : BitVec 4
  segDp : Bool
  deriving DecidableEq, Repr

/-- A byte is accepted in this cycle (R30): `rx_valid = 1`, `sess_clear = 0`, `rst = 0`. -/
def accepts (p : Pins) : Bool := p.rxValid && !p.sessClear && !p.rst

/-- The event of this cycle, NONE where no byte is accepted. -/
def cycleEvent (t : SegTab) (p : Pins) (s : State) : Event :=
  if accepts p then pushEvent t s.win p.rxData else .none

/-- The output pins during a cycle (R30): the event outputs are functions of the window and of the
inputs of the same cycle; the relay outputs are the relay bits as they stand (R145). -/
def outputs (t : SegTab) (p : Pins) (s : State) : Outputs :=
  let e := cycleEvent t p s
  let r := eventReport e
  { evtValid := accepts p
    evtKind := eventKind e
    evtN := (r.map fun h => BitVec.ofNat 10 h.n).getD 0#10
    evtDp := (r.map HeightReport.dp).getD false
    evtG1 := (r.map fun h => digitCode (.digit h.g1)).getD 0#4
    evtG2 := (r.map fun h => digitCode (.digit h.g2)).getD 0#4
    evtG3 := (r.map fun h => digitCode (.digit h.g3)).getD 0#4
    evtP1 := (r.map HeightReport.p1).getD false
    evtP2 := (r.map HeightReport.p2).getD false
    evtP3 := (r.map HeightReport.p3).getD false
    relay1 := s.r1
    relay2 := s.r2
    segDigit := digitCode (decSeg t p.segIn).digit
    segDp := pointBit p.segIn }

/-- The synchronizer's part of a cycle without `rst`: CLR over PUSH (R122, R185 (2)). -/
def cycleSync (t : SegTab) (p : Pins) (s : State) : State :=
  if p.sessClear then s.clearWindow
  else if p.rxValid then s.pushByte t p.rxData
  else s

/-- The relay driver's part of a cycle without `rst` (R141, R144). -/
def cycleRelay (p : Pins) (s : State) : State := if p.relayWe then s.setRelays p.relayOn else s

/-- The state after one clock cycle (R28): `rst` over everything (R185 (1), R210), else each unit takes
its own operation (R47, R185 (4)); the decoder port shows DEC of `seg_in` in every cycle (R97, R210).  That the
synchronizer comes before the relay driver cannot be seen (DEDUCED, notes/assumptions/15.md, safe). -/
def cycle (t : SegTab) (p : Pins) (s : State) : State :=
  let s' := s.quiet.showDec t p.segIn
  if p.rst then s'.resetBlock else cycleRelay p (cycleSync t p s')

/-- The electrical level of a relay pin that carries the logical value `r` (R145): the value itself
where the active level is 1, its complement where it is 0. -/
def relayPin (activeLevel r : Bool) : Bool := if activeLevel then r else !r

/-- The two relay pins under a given RELAY_ACTIVE_LEVEL (R8, R145). -/
def relayPins (activeLevel : Bool) (s : State) : Bool × Bool :=
  (relayPin activeLevel s.r1, relayPin activeLevel s.r2)

/-- The two relay pins at the default level (R8). -/
def defaultRelayPins (s : State) : Bool × Bool := relayPins relayActiveLevel s

end Sys2Proof.Machine
end

