-- ==== Sys2Proof/Machine/Decoder.lean ====
section
/-! DEFINITION. The meanings of DEC and of the SEG.* rows (`40_decoder.md`).  A SEG.* row is DEC of its
own segment byte (`opcode_table.json`, the note of row DEC), so each presents that byte at the decoder
port.  None reads or writes state (R95).  Each meaning is the operation at a given SEGTAB (R7), taken at
the table in force. -/

namespace Sys2Proof.Machine

/-- DEC b at a given table (R90). -/
def decWith (t : SegTab) (b : Byte) (s : State) : Host.Outcome State Fault Refusal :=
  .next (s.quiet.showDec t b)

/-- The SEG.* row of a digit or of blank at a given table: DEC of the row's byte (R63, R97). -/
def rowWith (t : SegTab) (g : Digit) (p : Bool) (s : State) : Host.Outcome State Fault Refusal :=
  decWith t (segByte p (rowPattern t g)) s

/-- DEC b (R90). -/
def execDec (b : Byte) (s : State) : Host.Outcome State Fault Refusal := decWith segTab b s

/-- SEG.BLANK (R93). -/
def execSegBlank (p : Bool) (s : State) : Host.Outcome State Fault Refusal :=
  rowWith segTab .blank p s

/-- SEG.0 (R63). -/
def execSeg0 (p : Bool) (s : State) : Host.Outcome State Fault Refusal :=
  rowWith segTab (.digit 0) p s

/-- SEG.1 (R63). -/
def execSeg1 (p : Bool) (s : State) : Host.Outcome State Fault Refusal :=
  rowWith segTab (.digit 1) p s

/-- SEG.2 (R63). -/
def execSeg2 (p : Bool) (s : State) : Host.Outcome State Fault Refusal :=
  rowWith segTab (.digit 2) p s

/-- SEG.3 (R63). -/
def execSeg3 (p : Bool) (s : State) : Host.Outcome State Fault Refusal :=
  rowWith segTab (.digit 3) p s

/-- SEG.4 (R63). -/
def execSeg4 (p : Bool) (s : State) : Host.Outcome State Fault Refusal :=
  rowWith segTab (.digit 4) p s

/-- SEG.5 (R63). -/
def execSeg5 (p : Bool) (s : State) : Host.Outcome State Fault Refusal :=
  rowWith segTab (.digit 5) p s

/-- SEG.6 (R63). -/
def execSeg6 (p : Bool) (s : State) : Host.Outcome State Fault Refusal :=
  rowWith segTab (.digit 6) p s

/-- SEG.7 (R63). -/
def execSeg7 (p : Bool) (s : State) : Host.Outcome State Fault Refusal :=
  rowWith segTab (.digit 7) p s

/-- SEG.8 (R63). -/
def execSeg8 (p : Bool) (s : State) : Host.Outcome State Fault Refusal :=
  rowWith segTab (.digit 8) p s

/-- SEG.9 (R63). -/
def execSeg9 (p : Bool) (s : State) : Host.Outcome State Fault Refusal :=
  rowWith segTab (.digit 9) p s

/-- SEG.INVALID (R94). -/
def execSegInvalid (p : Bool) (x : Pattern) (s : State) : Host.Outcome State Fault Refusal :=
  decWith segTab (segByte p x) s

end Sys2Proof.Machine
end

