-- ==== Sys2Proof/Machine/Relay.lean ====
section
/-! DEFINITION. The meanings of RSET and RNOP (`42_relay.md`). -/

namespace Sys2Proof.Machine

/-- RSET on (R141, R142). -/
def execRset (on : Bool) (s : State) : Host.Outcome State Fault Refusal :=
  .next (s.quiet.setRelays on)

/-- RNOP (R144). -/
def execRnop (s : State) : Host.Outcome State Fault Refusal := .next s.quiet

end Sys2Proof.Machine
end

