-- ==== Sys2Proof/Machine/Reset.lean ====
section
/-! DEFINITION. The meaning of RESET (`70_reset_and_hazards.md` rule R210). -/

namespace Sys2Proof.Machine

/-- RESET (R210): the seven items take their reset values in one step, and no event is output. -/
def execReset (s : State) : Host.Outcome State Fault Refusal := .next s.quiet.resetBlock

end Sys2Proof.Machine
end

