-- ==== Sys2Proof/Machine/Synchronizer.lean ====
section
/-! DEFINITION. The meanings of CLR, PUSH, SNOP and of the row HF.HEIGHT (`41_synchronizer.md`).  PUSH and
HF.HEIGHT are the operation at a given SEGTAB (R7), taken at the table in force. -/

namespace Sys2Proof.Machine

/-- CLR (R111). -/
def execClr (s : State) : Host.Outcome State Fault Refusal := .next s.quiet.clearWindow

/-- PUSH b at a given table (R113). -/
def pushWith (t : SegTab) (b : Byte) (s : State) : Host.Outcome State Fault Refusal :=
  .next (s.quiet.pushByte t b)

/-- PUSH b (R113). -/
def execPush (b : Byte) (s : State) : Host.Outcome State Fault Refusal := pushWith segTab b s

/-- SNOP (R112). -/
def execSnop (s : State) : Host.Outcome State Fault Refusal := .next s.quiet

/-- The six bytes of a frame at a given table. -/
def frameWith (t : SegTab) (d1 d2 d3 : Byte) (s : State) : Host.Outcome State Fault Refusal :=
  .next (s.quiet.pushBytes t [sentinel, hfLen, hfType, d1, d2, d3])

/-- HF.HEIGHT, the six bytes of a frame pushed in arrival order (R65, R77 FRAME; DESIGN CHOICE,
notes/assumptions/6.md, safe: the table says the row is no operation of its own). -/
def execHfHeight (d1 d2 d3 : Byte) (s : State) : Host.Outcome State Fault Refusal :=
  frameWith segTab d1 d2 d3 s

end Sys2Proof.Machine
end

