-- ==== Sys2Proof/Machine/Dispatch.lean ====
section
/-! DEFINITION. The meaning of every operation: one arm per constructor of `Instr`, each one direct call. -/

namespace Sys2Proof.Machine

def exec (i : Instr) (s : State) : Host.Outcome State Fault Refusal :=
  match i with
  | .dec b => Sys2Proof.Machine.execDec b s
  | .segBlank p => Sys2Proof.Machine.execSegBlank p s
  | .seg0 p => Sys2Proof.Machine.execSeg0 p s
  | .seg1 p => Sys2Proof.Machine.execSeg1 p s
  | .seg2 p => Sys2Proof.Machine.execSeg2 p s
  | .seg3 p => Sys2Proof.Machine.execSeg3 p s
  | .seg4 p => Sys2Proof.Machine.execSeg4 p s
  | .seg5 p => Sys2Proof.Machine.execSeg5 p s
  | .seg6 p => Sys2Proof.Machine.execSeg6 p s
  | .seg7 p => Sys2Proof.Machine.execSeg7 p s
  | .seg8 p => Sys2Proof.Machine.execSeg8 p s
  | .seg9 p => Sys2Proof.Machine.execSeg9 p s
  | .segInvalid p x => Sys2Proof.Machine.execSegInvalid p x s
  | .clr => Sys2Proof.Machine.execClr s
  | .push b => Sys2Proof.Machine.execPush b s
  | .snop => Sys2Proof.Machine.execSnop s
  | .rset on => Sys2Proof.Machine.execRset on s
  | .rnop => Sys2Proof.Machine.execRnop s
  | .reset => Sys2Proof.Machine.execReset s
  | .hfHeight d1 d2 d3 => Sys2Proof.Machine.execHfHeight d1 d2 d3 s

end Sys2Proof.Machine
end

