-- ==== Sys2Proof/Machine/Table.lean ====
section
/-! DEFINITION. The meaning of every operation at any SEGTAB (`00_scope.md` rule R7: "a named parameter
... which the model takes as an argument").  `exec` of `Dispatch.lean` is this at the table in force; an
operation that decodes no segment byte has one meaning for every table. -/

namespace Sys2Proof.Machine

/-- The meaning of an operation at a given table. -/
def execWith (t : SegTab) (i : Instr) (s : State) : Host.Outcome State Fault Refusal :=
  match i with
  | .dec b => decWith t b s
  | .segBlank p => rowWith t .blank p s
  | .seg0 p => rowWith t (.digit 0) p s
  | .seg1 p => rowWith t (.digit 1) p s
  | .seg2 p => rowWith t (.digit 2) p s
  | .seg3 p => rowWith t (.digit 3) p s
  | .seg4 p => rowWith t (.digit 4) p s
  | .seg5 p => rowWith t (.digit 5) p s
  | .seg6 p => rowWith t (.digit 6) p s
  | .seg7 p => rowWith t (.digit 7) p s
  | .seg8 p => rowWith t (.digit 8) p s
  | .seg9 p => rowWith t (.digit 9) p s
  | .segInvalid p x => decWith t (segByte p x) s
  | .clr => execClr s
  | .push b => pushWith t b s
  | .snop => execSnop s
  | .rset on => execRset on s
  | .rnop => execRnop s
  | .reset => execReset s
  | .hfHeight d1 d2 d3 => frameWith t d1 d2 d3 s

end Sys2Proof.Machine
end

