-- ==== Sys2Proof/Machine/Drive.lean ====
section
/-! DEFINITION. How the host's moves drive the block (`44_host_contract.md` rule R155): one step takes the
next thing presented.  The block fetches nothing (R25); what `pending` holds is the host's choice.  The
table SEGTAB is an argument (R7), and with it the meaning of the operations at that table. -/

namespace Sys2Proof.Machine

/-- A meaning of the operations: `exec`, or `execWith` at some table. -/
abbrev Meaning := Instr → State → Host.Outcome State Fault Refusal

/-- One operation word at its port.  A word that selects no operation still has an effect the spec
gives: a low `rst` pin does nothing (R210), and six bytes that are no height frame are six ordinary
bytes, pushed like any others (R67, R129).  DEDUCED, notes/assumptions/8.md, safe. -/
def runWord (t : SegTab) (run : Meaning) (w : OpWord) (s : State) :
    Host.Outcome State Fault Refusal :=
  match decodeWith t w with
  | .ok i => run i s
  | .error .rstLow => .next s.quiet
  | .error (.notHeightFrame f) => .next (s.quiet.pushBytes t (frameBytes f))

/-- One step: the next thing presented, or, where nothing is, an idle step in which both units hold
(SNOP and RNOP, R112, R144).  DEDUCED, notes/assumptions/7.md, safe. -/
def advance (t : SegTab) (run : Meaning) (s : State) : Host.Outcome State Fault Refusal :=
  match s.pending with
  | [] => .next s.quiet
  | .op w :: rest => runWord t run w { s with pending := rest }
  | .cycle p :: rest => .next (cycle t p { s with pending := rest })

end Sys2Proof.Machine
end

