-- ==== Sys2Proof/Machine/Step.lean ====
section
/-! DEFINITION. One step of the machine, and the host's way to present one table word as the next thing. -/

namespace Sys2Proof.Machine

/-- One step of the machine with a given SEGTAB (R7, `Drive.lean`). -/
def stepWith (t : SegTab) (s : State) : Host.Outcome State Fault Refusal := advance t (execWith t) s

/-- One step at the table in force, running `exec`.  Its outcome is always a next state (R180). -/
def step (s : State) : Host.Outcome State Fault Refusal := advance segTab exec s

/-- `s` with the word of a table row presented next, before what was pending.  A number of bits that is
no row's presents nothing. -/
def State.withFetchWord (s : State) (nbits w : Nat) : State :=
  match tableOpWord nbits w with
  | some ow => { s with pending := .op ow :: s.pending }
  | none => s

end Sys2Proof.Machine
end

