-- ==== Sys2Proof/Machine/Stimulus.lean ====
section
/-! DEFINITION. The text form of an operation sequence (`30_encoding.md` rules R76 and R77): one line of
text to the operations it stands for, with the SEGTAB in force as an argument (R77).  A line is a list of
characters; `none` is a line that is no line of the syntax.  The block never sees text: this is how the
spec's test vectors are written (D21). -/

namespace Sys2Proof.Machine

/-- A finished token, if any character was collected. -/
def flush (cur : List Char) : List (List Char) := if cur.isEmpty then [] else [cur.reverse]

/-- The tokens of a line: split at spaces and tabs, and cut at `#`, which starts a comment (R76). -/
def tokens : List Char → List Char → List (List Char)
  | [], cur => flush cur
  | c :: cs, cur =>
    if c = '#' then flush cur
    else if c = ' ' ∨ c = '\t' then flush cur ++ tokens cs []
    else tokens cs (c :: cur)

/-- The value of a digit character, letters for ten to fifteen. -/
def charDigit (c : Char) : Option Nat :=
  let n := c.toNat
  if 48 ≤ n ∧ n ≤ 57 then some (n - 48)
  else if 65 ≤ n ∧ n ≤ 70 then some (n - 55)
  else if 97 ≤ n ∧ n ≤ 102 then some (n - 87)
  else none

/-- Digits in a base, after those already read. -/
def digitsIn (base : Nat) : List Char → Nat → Option Nat
  | [], acc => some acc
  | c :: cs, acc =>
    match charDigit c with
    | some d => if d < base then digitsIn base cs (base * acc + d) else none
    | none => none

/-- A number: hexadecimal with `0x`, decimal without (R76). -/
def parseNumber : List Char → Option Nat
  | [] => none
  | ['0', 'x'] => none
  | '0' :: 'x' :: ds => digitsIn 16 ds 0
  | ds => digitsIn 10 ds 0

/-- A number that is a byte. -/
def parseByte (tok : List Char) : Option Byte :=
  match parseNumber tok with
  | some n => if n < 256 then some (BitVec.ofNat 8 n) else none
  | none => none

/-- A decimal digit character as a digit. -/
def parseDecimalDigit (c : Char) : Option (Fin 10) :=
  match charDigit c with
  | some d => if h : d < 10 then some ⟨d, h⟩ else none
  | none => none

/-- `E(d)`: the segment byte of a digit with the point off, in the SEGTAB in force (R77). -/
def digitByte (t : SegTab) (d : Fin 10) : Byte := segByte false (rowPattern t (.digit d))

/-- `BYTES`: one PUSH per byte, in order (R77). -/
def bytesOps (bs : List Byte) : List Instr := bs.map Instr.push

/-- `FRAME d1 d2 d3` (R77). -/
def frameOps (d1 d2 d3 : Byte) : List Instr := bytesOps [sentinel, hfLen, hfType, d1, d2, d3]

/-- The operand of `HEIGHT`: three decimal digits, or two, a point and one; the point is lit on the tens
digit byte (R77). -/
def heightOps (t : SegTab) : List Char → Option (List Instr)
  | [a, b, c] =>
    match parseDecimalDigit a, parseDecimalDigit b, parseDecimalDigit c with
    | some x, some y, some z => some (frameOps (digitByte t x) (digitByte t y) (digitByte t z))
    | _, _, _ => none
  | [a, b, '.', c] =>
    match parseDecimalDigit a, parseDecimalDigit b, parseDecimalDigit c with
    | some x, some y, some z => some (frameOps (digitByte t x) (digitByte t y + 0x80#8) (digitByte t z))
    | _, _, _ => none
  | _ => none

/-- The operations of a tokenised line (R76, R77). -/
def lineOps (t : SegTab) : List (List Char) → Option (List Instr)
  | [] => some []
  | [['R', 'E', 'S', 'E', 'T']] => some [.reset]
  | [['C', 'L', 'R']] => some [.clr]
  | [['P', 'U', 'S', 'H'], b] => (parseByte b).map fun x => [.push x]
  | [['S', 'N', 'O', 'P']] => some [.snop]
  | [['R', 'S', 'E', 'T'], ['O', 'N']] => some [.rset true]
  | [['R', 'S', 'E', 'T'], ['O', 'F', 'F']] => some [.rset false]
  | [['R', 'N', 'O', 'P']] => some [.rnop]
  | [['D', 'E', 'C'], b] => (parseByte b).map fun x => [.dec x]
  | [['R', 'O', 'N']] => some [.rset true]
  | [['R', 'O', 'F', 'F']] => some [.rset false]
  | ['B', 'Y', 'T', 'E', 'S'] :: bs => (bs.mapM parseByte).map bytesOps
  | [['F', 'R', 'A', 'M', 'E'], d1, d2, d3] =>
    match parseByte d1, parseByte d2, parseByte d3 with
    | some x, some y, some z => some (frameOps x y z)
    | _, _, _ => none
  | [['H', 'E', 'I', 'G', 'H', 'T'], h] => heightOps t h
  | _ => none

/-- The operations one line of text stands for. -/
def parseLine (t : SegTab) (line : List Char) : Option (List Instr) := lineOps t (tokens line [])

end Sys2Proof.Machine
end

