-- ==== Sys2Proof/Safety.lean ====
section
/-! DEFINITION. The terms statements are made in: the block's own seven items, the invariants of
`10_state.md` rule R24, runs of operations with the events they output, and what the events of a byte
stream are by the stream alone (`41_synchronizer.md` rule R123). -/

namespace Sys2Proof.Machine

/-- The seven items of R20, without the model's own fields. -/
structure Block where
  win : Window
  r1 : Bool
  r2 : Bool
  deriving DecidableEq, Repr

/-- The block inside a state. -/
def State.block (s : State) : Block := ⟨s.win, s.r1, s.r2⟩

/-- R24 (a): where a slot is not EMPTY, neither is the one before it. -/
abbrev Window.PrefixFill (w : Window) : Prop :=
  (w.w1.isSome → w.w0.isSome) ∧ (w.w2.isSome → w.w1.isSome)
    ∧ (w.w3.isSome → w.w2.isSome) ∧ (w.w4.isSome → w.w3.isSome)

/-- R24 (b): the relay bits are equal. -/
abbrev State.Paired (s : State) : Prop := s.r1 = s.r2

/-- The invariants of R24 together. -/
abbrev State.Inv (s : State) : Prop := s.win.PrefixFill ∧ s.Paired

/-- A meaning of the operations at a table: `execWith` at any table, and `exec` at the table in force. -/
abbrev MeaningAt (t : SegTab) (run : Meaning) : Prop := run = execWith t ∨ (t = segTab ∧ run = exec)

/-- A step of the machine at a table: `stepWith` at any table, and `step` at the table in force. -/
abbrev StepAt (t : SegTab) (st : State → Host.Outcome State Fault Refusal) : Prop :=
  st = stepWith t ∨ (t = segTab ∧ st = step)

/-- A run of operations under a meaning: the last state and the events output on the way, in order;
`none` if some operation does not end in a next state. -/
def runOps (run : Meaning) : List Instr → State → Option (State × List Event)
  | [], s => some (s, [])
  | i :: is, s =>
    match run i s with
    | .next t => (runOps run is t).map fun r => (r.1, t.events ++ r.2)
    | .fault _ => none
    | .refused _ => none

/-- A stream of bytes as PUSH operations. -/
def pushes (bs : List Byte) : List Instr := bs.map Instr.push

/-- The header of a height frame stands at the three places before the digit bytes of `s[i]` (R123). -/
def headerBefore (bs : List Byte) (i : Nat) : Bool :=
  decide (5 ≤ i) && bs[i - 5]? == some sentinel && bs[i - 4]? == some hfLen
    && bs[i - 3]? == some hfType

/-- The event of the PUSH of `s[i]` by the stream alone (R123). -/
def streamEvent (t : SegTab) (bs : List Byte) (i : Nat) : Event :=
  if headerBefore bs i then classify t (bs.getD (i - 2) 0#8) (bs.getD (i - 1) 0#8) (bs.getD i 0#8)
  else .none

/-- The events of all PUSHes of a stream, in order (R123). -/
def streamEvents (t : SegTab) (bs : List Byte) : List Event :=
  (List.range bs.length).map (streamEvent t bs)

/-- The window with every EMPTY slot replaced by a byte (R32). -/
def Window.fill (f : Byte) (w : Window) : Window :=
  ⟨some (w.w0.getD f), some (w.w1.getD f), some (w.w2.getD f), some (w.w3.getD f), some (w.w4.getD f)⟩

/-- An operation of the synchronizer (R60). -/
def isSyncOp (i : Instr) : Bool := i.unit == .synchronizer

/-- An operation of the relay driver (R60). -/
def isRelayOp (i : Instr) : Bool := i.unit == .relay

/-- An operation of the decoder (R60). -/
def isDecoderOp (i : Instr) : Bool := i.unit == .decoder

/-- An idle operation (R223). -/
def isIdle : Instr → Bool
  | .snop | .rnop => true
  | .dec _ | .segBlank _ | .seg0 _ | .seg1 _ | .seg2 _ | .seg3 _ | .seg4 _ | .seg5 _ | .seg6 _
  | .seg7 _ | .seg8 _ | .seg9 _ | .segInvalid _ _ | .clr | .push _ | .rset _ | .reset
  | .hfHeight _ _ _ => false

end Sys2Proof.Machine
end

