-- ==== Sys2Proof/Certificates/Slice0/Obligations.lean ====
section
/-! DEFINITION. The statements for the provers, by file of `spec/`.  A statement quantified over a table
`t` holds for the machine with that SEGTAB (R7): under `MeaningAt t run`, `run` is `execWith t`, and also
`exec` where `t` is the table in force; under `StepAt t st`, `st` is `stepWith t`, and also `step` there.
One about `exec` alone is about the table in force (notes/assumptions/1.md). -/

open Sys2Proof Sys2Proof.Machine

/-! ### The decoder (`40_decoder.md`) -/

/-- R90: DEC at every table answers the table's digit for `b[6:0]` and the bit `b[7]`, reads and writes no state, and
raises nothing; its worked example. -/
def Obligations.DecShowsDigitAndPoint : Prop :=
  (∀ b s, exec (.dec b) s
      = .next { s with events := [], seg := some ⟨segTab (b.extractLsb' 0 7), b.getLsbD 7⟩ })
  ∧ (∀ t b s, execWith t (.dec b) s
      = .next { s with events := [], seg := some ⟨t (b.extractLsb' 0 7), b.getLsbD 7⟩ })
  ∧ (∀ b t, -1 ≤ digitValue (decSeg t b).digit ∧ digitValue (decSeg t b).digit ≤ 10)
  ∧ (∀ s, exec (.dec 0xDB#8) s = .next { s with events := [], seg := some ⟨.digit 2, true⟩ })

/-- R91: the split of a byte does not depend on the digit it gives; the two examples of the rule. -/
def Obligations.PointIsTakenWhateverTheDigit : Prop :=
  (∀ t b, decSeg t b = ⟨t (b.extractLsb' 0 7), b.getLsbD 7⟩)
  ∧ (∀ t : SegTab, t.Admissible → decSeg t 0x80#8 = ⟨.blank, true⟩)
  ∧ decSeg segTab 0xC0#8 = ⟨.unrecognised, true⟩

/-- R92 (derived there from R90): flipping `b[7]` leaves the digit and flips the flag. -/
def Obligations.TopBitDoesNotChangeDigit : Prop :=
  ∀ t b, (decSeg t (b ^^^ 0x80#8)).digit = (decSeg t b).digit
    ∧ (decSeg t (b ^^^ 0x80#8)).point = !(decSeg t b).point

/-- R93: the all-unlit pattern is blank, value 10, in every admissible table. -/
def Obligations.UnlitIsBlankInEveryTable : Prop :=
  ∀ t : SegTab, t.Admissible →
    t 0x00#7 = .blank ∧ digitValue .blank = 10
    ∧ decSeg t 0x00#8 = ⟨.blank, false⟩ ∧ decSeg t 0x80#8 = ⟨.blank, true⟩

/-- R94: a pattern that is no entry of a table is unrecognised, value -1; under the default table these
are the 117 patterns other than the eleven listed. -/
def Obligations.PatternsOffTheTableAreUnrecognised : Prop :=
  (∀ (rows : List (Pattern × Digit)) s, (∀ r ∈ rows, r.1 ≠ s) →
      SegTab.ofRows rows s = .unrecognised)
  ∧ digitValue .unrecognised = -1
  ∧ (∀ s, segTab s = .unrecognised ↔
      s ∉ [0x00#7, 0x06#7, 0x07#7, 0x3F#7, 0x4F#7, 0x5B#7, 0x66#7, 0x6D#7, 0x6F#7, 0x7D#7, 0x7F#7])
  ∧ ((List.range 128).filter fun n => segTab (BitVec.ofNat 7 n) == .unrecognised).length = 117

/-- R95: DEC completes for every byte in every state, changes none of the seven items, and two
evaluations on one byte show one pair, that of DEC. -/
def Obligations.DecIsTotalAndPure : Prop :=
  ∀ t run, MeaningAt t run → ∀ b s s', ∃ u u', run (.dec b) s = .next u ∧ run (.dec b) s' = .next u'
    ∧ u.seg = some (decSeg t b) ∧ u'.seg = u.seg ∧ u.block = s.block ∧ u'.block = s'.block

/-- The entries of the default table, by both bytes of each row, and the counts of 22 and 234 bytes
(R63, from the spec's general knowledge but for blank: notes/assumptions/1.md). -/
def Obligations.DefaultTableEntries : Prop :=
  (∀ r ∈ [(0x3F#8, 0xBF#8, Digit.digit 0), (0x06#8, 0x86#8, .digit 1), (0x5B#8, 0xDB#8, .digit 2),
      (0x4F#8, 0xCF#8, .digit 3), (0x66#8, 0xE6#8, .digit 4), (0x6D#8, 0xED#8, .digit 5),
      (0x7D#8, 0xFD#8, .digit 6), (0x07#8, 0x87#8, .digit 7), (0x7F#8, 0xFF#8, .digit 8),
      (0x6F#8, 0xEF#8, .digit 9), (0x00#8, 0x80#8, .blank)],
    decSeg segTab r.1 = ⟨r.2.2, false⟩ ∧ decSeg segTab r.2.1 = ⟨r.2.2, true⟩)
  ∧ ((List.range 256).filter fun n =>
      (decSeg segTab (BitVec.ofNat 8 n)).digit == .unrecognised).length = 234

/-- The SEG.* rows with a digit or blank: each completes in every state, shows the row's digit with
its point, and changes nothing else, at the table in force (R63: notes/assumptions/1.md) and, with the
rows of that table, at every admissible one. -/
def Obligations.SegRowsShowTheirDigit : Prop :=
  (∀ p s,
    exec (.segBlank p) s = .next { s with events := [], seg := some ⟨.blank, p⟩ }
    ∧ exec (.seg0 p) s = .next { s with events := [], seg := some ⟨.digit 0, p⟩ }
    ∧ exec (.seg1 p) s = .next { s with events := [], seg := some ⟨.digit 1, p⟩ }
    ∧ exec (.seg2 p) s = .next { s with events := [], seg := some ⟨.digit 2, p⟩ }
    ∧ exec (.seg3 p) s = .next { s with events := [], seg := some ⟨.digit 3, p⟩ }
    ∧ exec (.seg4 p) s = .next { s with events := [], seg := some ⟨.digit 4, p⟩ }
    ∧ exec (.seg5 p) s = .next { s with events := [], seg := some ⟨.digit 5, p⟩ }
    ∧ exec (.seg6 p) s = .next { s with events := [], seg := some ⟨.digit 6, p⟩ }
    ∧ exec (.seg7 p) s = .next { s with events := [], seg := some ⟨.digit 7, p⟩ }
    ∧ exec (.seg8 p) s = .next { s with events := [], seg := some ⟨.digit 8, p⟩ }
    ∧ exec (.seg9 p) s = .next { s with events := [], seg := some ⟨.digit 9, p⟩ })
  ∧ ∀ t : SegTab, t.Admissible → ∀ p s,
    execWith t (.segBlank p) s = .next { s with events := [], seg := some ⟨.blank, p⟩ }
    ∧ ∀ n, execWith t (segOfDigit p n) s = .next { s with events := [], seg := some ⟨.digit n, p⟩ }

/-- The row SEG.INVALID: it completes for every pattern in every state and shows what the table gives,
which is unrecognised exactly for the patterns of the row. -/
def Obligations.SegInvalidShowsUnrecognised : Prop :=
  (∀ p x s, exec (.segInvalid p x) s = .next { s with events := [], seg := some ⟨segTab x, p⟩ })
  ∧ (∀ p x s, (Instr.segInvalid p x).wf = true →
      exec (.segInvalid p x) s = .next { s with events := [], seg := some ⟨.unrecognised, p⟩ })
  ∧ (∀ t p x s, (Instr.segInvalid p x).wfWith t = true →
      execWith t (.segInvalid p x) s = .next { s with events := [], seg := some ⟨.unrecognised, p⟩ })

/-- A segment byte read by its SEG.* row and read as DEC do the same, at every admissible table
(notes/assumptions/3.md). -/
def Obligations.SegRowActsAsDecOfItsByte : Prop :=
  (∀ b s, exec (decodeSB b) s = exec (.dec b) s)
  ∧ ∀ t : SegTab, t.Admissible → ∀ b s, execWith t (decodeSBWith t b) s = execWith t (.dec b) s

/-! ### The synchronizer (`41_synchronizer.md`) -/

/-- R111 (decision D14): CLR empties the window, outputs no event, leaves the relays; afterwards no byte pushed before
it matters and five pushes fire nothing; an empty window stays as it is; the worked example. -/
def Obligations.ClrStartsASession : Prop :=
  (∀ s, exec .clr s = .next { s with win := ⟨none, none, none, none, none⟩, events := [], seg := none })
  ∧ (∀ s, s.win = Window.empty → ∃ t, exec .clr s = .next t ∧ t.block = s.block)
  ∧ (∀ t run, MeaningAt t run → ∀ s s' bs, ∃ u u' evs,
      runOps run (.clr :: pushes bs) s = some (u, evs)
      ∧ runOps run (.clr :: pushes bs) s' = some (u', evs))
  ∧ (∀ t run, MeaningAt t run → ∀ s bs, bs.length ≤ 5 →
      ∃ u, runOps run (.clr :: pushes bs) s = some (u, List.replicate bs.length .none))
  ∧ (∀ s, s.win = ⟨some 0x5B#8, some 0x06#8, some 0x12#8, some 0x07#8, some 0x9B#8⟩ →
      (∃ t, runOps exec [.clr, .push 0x6D#8] s = some (t, [.none]))
      ∧ ∃ t, runOps exec [.push 0x6D#8] s
          = some (t, [.height ⟨1, 2, 5, false, false, false, 125, false⟩]))

/-- R112 (decision D1): SNOP changes nothing and outputs nothing, and any number of them between two PUSHes changes
neither the window nor the events. -/
def Obligations.SnopDoesNotAgeTheWindow : Prop :=
  (∀ s, exec .snop s = .next { s with events := [], seg := none })
  ∧ (∀ t run, MeaningAt t run → ∀ n b b' s, ∃ u u' evs,
      runOps run (.push b :: (List.replicate n .snop ++ [.push b'])) s = some (u, evs)
      ∧ runOps run [.push b, .push b'] s = some (u', evs) ∧ u.block = u'.block)

/-- R113: the whole of PUSH at every table, as the rule's pseudocode has it, and its worked example.  The premise is the
invariant R24 (a), under which a digit slot holds a byte whenever the header stands before it, so that
the 0x00 that stands here for an EMPTY digit slot (notes/assumptions/5.md) is never used. -/
def Obligations.PushFollowsItsPseudocode : Prop :=
  (∀ t run, MeaningAt t run → ∀ b s, s.win.PrefixFill →
    run (.push b) s = .next { s with
      win := ⟨some b, s.win.w0, s.win.w1, s.win.w2, s.win.w3⟩
      seg := none
      events :=
        [ if s.win.w4 = some 0x9B#8 ∧ s.win.w3 = some 0x07#8 ∧ s.win.w2 = some 0x12#8 then
            let d1 := s.win.w1.getD 0x00#8
            let d2 := s.win.w0.getD 0x00#8
            let g1 := t (d1.extractLsb' 0 7)
            let g2 := t (d2.extractLsb' 0 7)
            let g3 := t (b.extractLsb' 0 7)
            if d1 = 0x00#8 then .blank
            else if g1 = .unrecognised ∨ g2 = .unrecognised ∨ g3 = .unrecognised then .invalid
            else if g1 = .blank ∨ g2 = .blank ∨ g3 = .blank then .blank
            else match g1, g2, g3 with
              | .digit x, .digit y, .digit z =>
                .height ⟨x, y, z, d1.getLsbD 7, d2.getLsbD 7, b.getLsbD 7,
                  100 * x.val + 10 * y.val + z.val,
                  d1.getLsbD 7 || d2.getLsbD 7 || b.getLsbD 7⟩
              | _, _, _ => .none
          else .none ] })
  ∧ (∀ s, s.win = ⟨some 0x5B#8, some 0x06#8, some 0x12#8, some 0x07#8, some 0x9B#8⟩ →
      exec (.push 0x6D#8) s = .next { s with
        win := ⟨some 0x6D#8, some 0x5B#8, some 0x06#8, some 0x12#8, some 0x07#8⟩
        seg := none
        events := [.height ⟨1, 2, 5, false, false, false, 125, false⟩] })

/-- R121: every PUSH, in every state and whatever it reports, shifts the window by one place and outputs
one event; relays, decoder and what is pending are left. -/
def Obligations.PushAlwaysShifts : Prop :=
  (∀ b s, ∃ e, exec (.push b) s = .next { s with
    win := ⟨some b, s.win.w0, s.win.w1, s.win.w2, s.win.w3⟩, events := [e], seg := none })
  ∧ ∀ t b s, ∃ e, execWith t (.push b) s = .next { s with
    win := ⟨some b, s.win.w0, s.win.w1, s.win.w2, s.win.w3⟩, events := [e], seg := none }

/-- R114 (decision D6): a PUSH in any state reports something other than NONE exactly when sentinel, LEN and TYPE stand
in the three oldest slots; while `W[4]` is EMPTY it reports NONE. -/
def Obligations.FiresExactlyOnTheHeader : Prop :=
  ∀ t run, MeaningAt t run → ∀ b s, ∃ u e, run (.push b) s = .next u ∧ u.events = [e]
    ∧ (e ≠ .none ↔ s.win.w4 = some 0x9B#8 ∧ s.win.w3 = some 0x07#8 ∧ s.win.w2 = some 0x12#8)
    ∧ (s.win.w4 = none → e = .none)

/-- R115, and R116 (decisions D8, D9): with the header before them the digit bytes are `W[1]`, `W[0]` and the arriving byte,
and the event is the one the rule's table gives, for every table; exactly one row applies. -/
def Obligations.RecognisedFrameIsClassified : Prop :=
  (∀ t run, MeaningAt t run → ∀ d1 d2 d3 s,
    s.win = ⟨some d2, some d1, some 0x12#8, some 0x07#8, some 0x9B#8⟩ →
    run (.push d3) s = .next { s with
      win := ⟨some d3, some d2, some d1, some 0x12#8, some 0x07#8⟩
      events := [classify t d1 d2 d3], seg := none })
  ∧ (∀ (t : SegTab) d1 d2 d3,
      (d1 = 0x00#8 → classify t d1 d2 d3 = .blank)
      ∧ (d1 ≠ 0x00#8 → (∃ d ∈ [d1, d2, d3], (decSeg t d).digit = .unrecognised) →
          classify t d1 d2 d3 = .invalid)
      ∧ (d1 ≠ 0x00#8 → (∀ d ∈ [d1, d2, d3], (decSeg t d).digit ≠ .unrecognised) →
          (∃ d ∈ [d1, d2, d3], (decSeg t d).digit = .blank) → classify t d1 d2 d3 = .blank)
      ∧ (d1 ≠ 0x00#8 → (∀ d ∈ [d1, d2, d3], (decSeg t d).digit ≠ .unrecognised) →
          (∀ d ∈ [d1, d2, d3], (decSeg t d).digit ≠ .blank) →
          ∃ r, classify t d1 d2 d3 = .height r))

/-- R117 and R118: where the three digit bytes decode to digits, the HEIGHT event carries them, their
point bits, the number (at most 999, leading zeros ordinary) and the OR of the points; the value is the
number over ten exactly when some point is lit; and no other HEIGHT event exists (R118: decision D10). -/
def Obligations.HeightNumberAndDecimalFlag : Prop :=
  (∀ t run, t.Admissible → MeaningAt t run → ∀ (g1 g2 g3 : Fin 10) d1 d2 d3 s,
    s.win = ⟨some d2, some d1, some 0x12#8, some 0x07#8, some 0x9B#8⟩ →
    t (d1.extractLsb' 0 7) = .digit g1 → t (d2.extractLsb' 0 7) = .digit g2 →
    t (d3.extractLsb' 0 7) = .digit g3 →
    ∃ r : HeightReport,
      run (.push d3) s = .next { s with
        win := ⟨some d3, some d2, some d1, some 0x12#8, some 0x07#8⟩
        events := [.height r], seg := none }
      ∧ r = ⟨g1, g2, g3, d1.getLsbD 7, d2.getLsbD 7, d3.getLsbD 7,
          100 * g1.val + 10 * g2.val + g3.val,
          d1.getLsbD 7 || d2.getLsbD 7 || d3.getLsbD 7⟩
      ∧ r.n ≤ 999
      ∧ heightValue r = if d1.getLsbD 7 || d2.getLsbD 7 || d3.getLsbD 7
          then ((100 * g1.val + 10 * g2.val + g3.val : Nat) : Rat) / 10
          else ((100 * g1.val + 10 * g2.val + g3.val : Nat) : Rat))
  ∧ (∀ t run, MeaningAt t run → ∀ b s u r, run (.push b) s = .next u → u.events = [.height r] →
      r.n = 100 * r.g1.val + 10 * r.g2.val + r.g3.val ∧ r.n ≤ 999 ∧ r.dp = (r.p1 || r.p2 || r.p3))
  ∧ heightNumber 0 8 9 = 89

/-- R119: a HEIGHT event is on the output pins in the very cycle in which D3 is accepted, with kind 1, the
three digits and points, the number and the flag; the source's two worked values. -/
def Obligations.HeightIsOnThePinsInTheCycleOfD3 : Prop :=
  (∀ (t : SegTab) (g1 g2 g3 : Fin 10) d1 d2 (p : Pins) s, t.Admissible →
    s.win = ⟨some d2, some d1, some 0x12#8, some 0x07#8, some 0x9B#8⟩ →
    p.rxValid = true → p.sessClear = false → p.rst = false →
    t (d1.extractLsb' 0 7) = .digit g1 → t (d2.extractLsb' 0 7) = .digit g2 →
    t (p.rxData.extractLsb' 0 7) = .digit g3 →
    (outputs t p s).evtValid = true ∧ (outputs t p s).evtKind = 1#2
    ∧ (outputs t p s).evtG1.toNat = g1.val ∧ (outputs t p s).evtG2.toNat = g2.val
    ∧ (outputs t p s).evtG3.toNat = g3.val
    ∧ (outputs t p s).evtP1 = d1.getLsbD 7 ∧ (outputs t p s).evtP2 = d2.getLsbD 7
    ∧ (outputs t p s).evtP3 = p.rxData.getLsbD 7
    ∧ (outputs t p s).evtN.toNat = 100 * g1.val + 10 * g2.val + g3.val
    ∧ (outputs t p s).evtDp = (d1.getLsbD 7 || d2.getLsbD 7 || p.rxData.getLsbD 7))
  ∧ heightValue (heightReport 1 2 5 false false false) = 125
  ∧ heightValue (heightReport 1 2 5 true false false) = 125 / 10

/-- R120 (decision D12), the outputs of NONE, BLANK and INVALID: kind 0, 2 or 3 and every other data output 0. -/
def Obligations.OtherEventsCarryNoData : Prop :=
  ∀ (t : SegTab) (p : Pins) s, (∀ r, cycleEvent t p s ≠ .height r) →
    (outputs t p s).evtKind ≠ 1#2
    ∧ (outputs t p s).evtN = 0#10 ∧ (outputs t p s).evtDp = false
    ∧ (outputs t p s).evtG1 = 0#4 ∧ (outputs t p s).evtG2 = 0#4 ∧ (outputs t p s).evtG3 = 0#4
    ∧ (outputs t p s).evtP1 = false ∧ (outputs t p s).evtP2 = false ∧ (outputs t p s).evtP3 = false
    ∧ (accepts p = true →
        (outputs t p s).evtKind = (match pushEvent t s.win p.rxData with
          | .blank => 2#2
          | .invalid => 3#2
          | _ => 0#2))

/-- R123 (derived there from R113): after CLR, and after RESET, from any state, the events of a byte stream
are those the stream and the table alone determine, one for each byte. -/
def Obligations.EventsAreAFunctionOfTheStream : Prop :=
  ∀ t run, MeaningAt t run → ∀ s bs,
    (∃ u, runOps run (.clr :: pushes bs) s = some (u, streamEvents t bs))
    ∧ ∃ u, runOps run (.reset :: pushes bs) s = some (u, streamEvents t bs)

/-- R21: after CLR or RESET and any stream of bytes, `W[k]` holds the byte pushed `k + 1` PUSHes ago, or
EMPTY when fewer have been pushed. -/
def Obligations.WindowHoldsTheLastFiveBytes : Prop :=
  ∀ t run, MeaningAt t run → ∀ s bs (k : Fin 5), ∀ start ∈ [Instr.clr, Instr.reset],
    ∃ u evs, runOps run (start :: pushes bs) s = some (u, evs)
      ∧ u.win.slot k = if k.val < bs.length then bs[bs.length - 1 - k.val]? else none

/-- R124 (derived): the first five PUSHes after CLR or RESET report NONE whatever the bytes are. -/
def Obligations.FirstFivePushesReportNone : Prop :=
  ∀ t run, MeaningAt t run → ∀ s bs, bs.length ≤ 5 → ∀ start ∈ [Instr.clr, Instr.reset],
    ∃ u, runOps run (start :: pushes bs) s = some (u, List.replicate bs.length .none)

/-- R125 (derived): two PUSHes of a session that report something are at least three apart; they are three
apart exactly when the digit bytes of the first are a header, and the first is then INVALID where the
table does not recognise both bytes 0x9B and 0x12 (the default table, notes/assumptions/1.md, neither). -/
def Obligations.ReportsAreThreePushesApart : Prop :=
  (segTab ((0x9B#8).extractLsb' 0 7) = .unrecognised ∧ segTab ((0x12#8).extractLsb' 0 7) = .unrecognised)
  ∧ ∀ t run, MeaningAt t run → ∀ s bs, ∃ u evs, runOps run (.clr :: pushes bs) s = some (u, evs)
    ∧ ∀ i e, evs[i]? = some e → e ≠ .none →
      (∀ j e', evs[j]? = some e' → e' ≠ .none → i < j → i + 3 ≤ j)
      ∧ (∀ e', evs[i + 3]? = some e' →
          (e' ≠ .none ↔
            bs[i - 2]? = some 0x9B#8 ∧ bs[i - 1]? = some 0x07#8 ∧ bs[i]? = some 0x12#8))
      ∧ (bs[i - 2]? = some 0x9B#8 ∧ bs[i - 1]? = some 0x07#8 ∧ bs[i]? = some 0x12#8 →
          t ((0x9B#8).extractLsb' 0 7) = .unrecognised ∨ t ((0x12#8).extractLsb' 0 7) = .unrecognised →
          e = .invalid)

/-- R126 (derived): what a HEIGHT event of a session guarantees about the six bytes and the number. -/
def Obligations.HeightOnlyFromAValidFrame : Prop :=
  ∀ t run, MeaningAt t run → ∀ s bs, ∃ u evs, runOps run (.clr :: pushes bs) s = some (u, evs)
    ∧ ∀ i r, evs[i]? = some (.height r) →
      5 ≤ i ∧ r.n ≤ 999
      ∧ ∃ d1 d2 d3, [bs[i - 5]?, bs[i - 4]?, bs[i - 3]?, bs[i - 2]?, bs[i - 1]?, bs[i]?]
          = [some 0x9B#8, some 0x07#8, some 0x12#8, some d1, some d2, some d3]
        ∧ d1 ≠ 0x00#8 ∧ (decSeg t d1).digit = .digit r.g1
        ∧ (decSeg t d2).digit = .digit r.g2 ∧ (decSeg t d3).digit = .digit r.g3

/-- R128 and R131 (decisions D7, D11): from any state, every pushed sentinel is tested when it reaches `W[4]`, whatever bytes
follow it (a sentinel among them cancels nothing), and the report comes on the sixth byte. -/
def Obligations.EverySentinelGetsItsOwnTest : Prop :=
  ∀ t run, MeaningAt t run → ∀ s ln ty d1 d2 d3, ∃ u evs,
    runOps run (pushes [0x9B#8, ln, ty, d1, d2, d3]) s = some (u, evs) ∧ evs.length = 6
    ∧ evs.getLast? = some (if ln = 0x07#8 ∧ ty = 0x12#8 then classify t d1 d2 d3 else .none)

/-- R130 (derived): a session whose stream holds no sentinel reports nothing. -/
def Obligations.NoSentinelNoReport : Prop :=
  ∀ t run, MeaningAt t run → ∀ s bs, 0x9B#8 ∉ bs →
    ∃ u, runOps run (.clr :: pushes bs) s = some (u, List.replicate bs.length .none)

/-- The row HF.HEIGHT (the model's reading, notes/assumptions/6.md): it completes from every state, acts as
its six PUSHes, and its last event is the classification of its digit bytes whatever came before. -/
def Obligations.FrameRowActsAsItsSixPushes : Prop :=
  ∀ t run, MeaningAt t run → ∀ d1 d2 d3 s, ∃ u evs,
    runOps run (pushes [0x9B#8, 0x07#8, 0x12#8, d1, d2, d3]) s = some (u, evs)
    ∧ run (.hfHeight d1 d2 d3) s = .next { s with
        win := ⟨some d3, some d2, some d1, some 0x12#8, some 0x07#8⟩, events := evs, seg := none }
    ∧ u.win = ⟨some d3, some d2, some d1, some 0x12#8, some 0x07#8⟩
    ∧ evs.getLast? = some (classify t d1 d2 d3)

/-- R67: six bytes that are no height frame end in NONE, as does every PUSH while the sentinel is not at
`W[4]`. -/
def Obligations.OtherSixByteRunsReportNone : Prop :=
  (∀ t run, MeaningAt t run → ∀ b1 b2 b3 b4 b5 s, b1 ≠ 0x07#8 ∨ b2 ≠ 0x12#8 → ∃ u evs,
    runOps run (pushes [0x9B#8, b1, b2, b3, b4, b5]) s = some (u, evs) ∧ evs.getLast? = some .none)
  ∧ (∀ t run, MeaningAt t run → ∀ b s, s.win.w4 ≠ some 0x9B#8 →
      ∃ u, run (.push b) s = .next u ∧ u.events = [.none])

/-- R127: nothing about earlier events is kept.  No operation and no step depends on what the outputs of
earlier steps were. -/
def Obligations.EarlierOutputsAreNeverRead : Prop :=
  ∀ t run st, MeaningAt t run → StepAt t st →
    (∀ i (s : State) e g, run i { s with events := e, seg := g } = run i s)
    ∧ (∀ (s : State) e g, st { s with events := e, seg := g } = st s)

/-- R32 (derived): from any window a run can show, an EMPTY slot behaves as any byte other than the
sentinel, for every stream of bytes. -/
def Obligations.EmptyActsAsAnyOtherByte : Prop :=
  ∀ t run, MeaningAt t run → ∀ (f : Byte), f ≠ 0x9B#8 → ∀ s, s.win.PrefixFill → ∀ bs, ∃ u u' evs,
    runOps run (pushes bs) s = some (u, evs)
    ∧ runOps run (pushes bs) { s with win := s.win.fill f } = some (u', evs)

/-! ### The relay driver (`42_relay.md`) -/

/-- R141: RSET writes both bits its operand, in one step, whatever they were, and nothing else. -/
def Obligations.RsetWritesBothRelays : Prop :=
  ∀ v s, exec (.rset v) s = .next { s with r1 := v, r2 := v, events := [], seg := none }

/-- R142 (decision D17): no operation and no step writes one relay bit alone or the two different values: both keep their
values, or both take one value. -/
def Obligations.RelaysAreWrittenAsAPair : Prop :=
  ∀ t run st, MeaningAt t run → StepAt t st →
    (∀ i s u, run i s = .next u → (u.r1 = s.r1 ∧ u.r2 = s.r2) ∨ u.r1 = u.r2)
    ∧ (∀ s u, st s = .next u → (u.r1 = s.r1 ∧ u.r2 = s.r2) ∨ u.r1 = u.r2)

/-- R143 (derived): a second RSET of the same value changes nothing, and the relays after it do not depend
on the state before. -/
def Obligations.RsetIsIdempotent : Prop :=
  ∀ v s s', ∃ t u u', runOps exec [.rset v] s = some (t, [])
    ∧ runOps exec [.rset v, .rset v] s = some (u, [])
    ∧ runOps exec [.rset v] s' = some (u', [])
    ∧ u.block = t.block ∧ u'.r1 = t.r1 ∧ u'.r2 = t.r2

/-- R144 (decision D25): RNOP holds everything, and nothing but RSET and RESET changes a relay bit. -/
def Obligations.OnlyRsetAndResetChangeRelays : Prop :=
  (∀ s, exec .rnop s = .next { s with events := [], seg := none })
  ∧ (∀ t run, MeaningAt t run → ∀ i s u, run i s = .next u → (∀ v, i ≠ .rset v) → i ≠ .reset →
      u.r1 = s.r1 ∧ u.r2 = s.r2)
  ∧ (∀ (t : SegTab) (p : Pins) s, p.rst = false → p.relayWe = false →
      (cycle t p s).r1 = s.r1 ∧ (cycle t p s).r2 = s.r2)

/-- R147 (derived): no event and no window content depends on the relay bits, no relay operation changes
the window, and no operation of the synchronizer changes the relay bits. -/
def Obligations.RelaysAndSynchronizerAreIndependent : Prop :=
  ∀ t run, MeaningAt t run →
    (∀ i (s : State) v1 v2, ∃ u u', run i s = .next u ∧ run i { s with r1 := v1, r2 := v2 } = .next u'
      ∧ u'.events = u.events ∧ u'.win = u.win)
    ∧ (∀ i s u, run i s = .next u → isRelayOp i = true → u.win = s.win ∧ u.events = [])
    ∧ (∀ i s u, run i s = .next u → isSyncOp i = true → u.r1 = s.r1 ∧ u.r2 = s.r2)

/-- R145 (decision D16): the pins carry the relay bits where the active level is 1 (the default) and their complements
where it is 0. -/
def Obligations.RelayPinsFollowTheActiveLevel : Prop :=
  ∀ s, relayPins true s = (s.r1, s.r2) ∧ relayPins false s = (!s.r1, !s.r2)
    ∧ defaultRelayPins s = relayPins true s

/-! ### State, reset and the whole machine (`10_state.md`, `20_memory.md`, `70_reset_and_hazards.md`) -/

/-- R29 (decisions D14, D16): the reset values of the seven items. -/
def Obligations.ResetStateValues : Prop :=
  State.reset.win = ⟨none, none, none, none, none⟩ ∧ State.reset.r1 = false ∧ State.reset.r2 = false
  ∧ ∀ s, ∃ t, exec .reset s = .next t ∧ t.block = State.reset.block

/-- R210 (decision D19): RESET in any state, and a cycle with `rst = 1` whatever the other pins are: reset values in one
step, no event, the decoder port unaffected; holding `rst` is one RESET. -/
def Obligations.ResetOverridesEverything : Prop :=
  (∀ s, exec .reset s = .next { s with
      win := ⟨none, none, none, none, none⟩, r1 := false, r2 := false, events := [], seg := none })
  ∧ (∀ (t : SegTab) (p : Pins) s, p.rst = true →
      cycle t p s = { s with
        win := ⟨none, none, none, none, none⟩, r1 := false, r2 := false, events := []
        seg := some (decSeg t p.segIn) }
      ∧ (outputs t p s).evtValid = false ∧ (outputs t p s).evtKind = 0#2
      ∧ (outputs t p s).evtN = 0#10 ∧ (outputs t p s).evtDp = false
      ∧ (outputs t p s).evtG1 = 0#4 ∧ (outputs t p s).evtG2 = 0#4 ∧ (outputs t p s).evtG3 = 0#4
      ∧ (outputs t p s).evtP1 = false ∧ (outputs t p s).evtP2 = false
      ∧ (outputs t p s).evtP3 = false
      ∧ (outputs t p s).segDigit = digitCode (decSeg t p.segIn).digit)
  ∧ (∀ (t : SegTab) (p p' : Pins) s, p.rst = true → p'.rst = true →
      (cycle t p' (cycle t p s)).block = (cycle t p s).block)

/-- R212 (derived): RESET and CLR do the same to the window, and only RESET touches the relays. -/
def Obligations.ResetDiffersFromClrInTheRelays : Prop :=
  ∀ s, ∃ t u, exec .reset s = .next t ∧ exec .clr s = .next u
    ∧ t.win = u.win ∧ t.events = u.events ∧ t.r1 = false ∧ t.r2 = false
    ∧ u.r1 = s.r1 ∧ u.r2 = s.r2

/-- R24 (derived): the reset state has the prefix fill and the pairing. -/
def Obligations.ResetStateHasTheInvariants : Prop := State.reset.Inv

/-- R24 (derived): at every table, every step from a state with the prefix fill and the pairing leaves one with them. -/
def Obligations.StepKeepsTheInvariants : Prop :=
  ∀ t st, StepAt t st → ∀ s u, s.Inv → st s = .next u → u.Inv

/-- R47 (derived): for any two interleavings of one sequence of SYNC operations and one sequence of RELAY
operations, with decoder operations anywhere, the end state and the events are the same. -/
def Obligations.InterleavingDoesNotMatter : Prop :=
  ∀ t run, MeaningAt t run → ∀ is js s, (∀ i ∈ is, i ≠ .reset) → (∀ j ∈ js, j ≠ .reset) →
    is.filter isSyncOp = js.filter isSyncOp → is.filter isRelayOp = js.filter isRelayOp →
    ∃ u u' evs, runOps run is s = some (u, evs) ∧ runOps run js s = some (u', evs)
      ∧ u.block = u'.block

/-- R223 (derived): SNOP and RNOP may be removed from any run without changing an event or the state. -/
def Obligations.IdleStepsAreInvisible : Prop :=
  ∀ t run, MeaningAt t run → ∀ is s, ∃ u u' evs, runOps run is s = some (u, evs)
    ∧ runOps run (is.filter fun i => !isIdle i) s = some (u', evs) ∧ u.block = u'.block

/-- The port-level reading is the transaction-level one (R28, R47, R185): a cycle leaves the block as the
operations its pins select leave it, with their events, and shows DEC of `seg_in`.  That `Pins.ops` lists
the synchronizer's operation before the relay driver's is the model's (DEDUCED,
notes/assumptions/15.md). -/
def Obligations.CycleIsTheOperationsOfItsPins : Prop :=
  ∀ t run, MeaningAt t run → ∀ (p : Pins) s, ∃ u evs, runOps run p.ops s = some (u, evs)
    ∧ cycle t p s = { u with events := evs, seg := some (decSeg t p.segIn) }

/-- R122 (decision D15): where CLR and a byte are presented together, the operation is CLR: the byte does not enter the
window and no event is output. -/
def Obligations.ClrBeatsAByteInTheSameCycle : Prop :=
  (∀ (t : SegTab) (p : Pins) s, p.rst = false → p.sessClear = true → p.rxValid = true →
    (cycle t p s).win = ⟨none, none, none, none, none⟩ ∧ (cycle t p s).events = []
    ∧ (outputs t p s).evtValid = false)
  ∧ (∀ w : SyncWord, w.getLsbD 9 = true → decode (.sp w) = .ok .clr)

/-- R30 (decisions D2, D12, D27): the output pins of a cycle carry the event that the step of this cycle outputs, as its event word,
and 0 where no byte is accepted; the relay pins and the decoder pins show R1, R2 and DEC of `seg_in`. -/
def Obligations.PinsCarryTheEventOfTheCycle : Prop :=
  ∀ (t : SegTab) (p : Pins) s,
    ((outputs t p s).evtValid = (p.rxValid && !p.sessClear && !p.rst))
    ∧ ((outputs t p s).evtValid = true ↔ ∃ e, (cycle t p s).events = [e])
    ∧ ((outputs t p s).evtValid = false ↔ (cycle t p s).events = [])
    ∧ ((outputs t p s).evtKind ++ (outputs t p s).evtN ++ BitVec.ofBool (outputs t p s).evtDp
        ++ (outputs t p s).evtG1 ++ (outputs t p s).evtG2 ++ (outputs t p s).evtG3
        ++ BitVec.ofBool (outputs t p s).evtP1 ++ BitVec.ofBool (outputs t p s).evtP2
        ++ BitVec.ofBool (outputs t p s).evtP3
      : BitVec 28) = (match (cycle t p s).events with
        | [e] => eventWord e
        | _ => 0#28)
    ∧ (outputs t p s).relay1 = s.r1 ∧ (outputs t p s).relay2 = s.r2
    ∧ (outputs t p s).segDigit = digitCode (t (p.segIn.extractLsb' 0 7))
    ∧ (outputs t p s).segDp = p.segIn.getLsbD 7

/-! ### Formats (`30_encoding.md`) -/

/-- The decoder reads back every well-formed operation from its canonical word, at the table in force and
at every admissible table. -/
def Obligations.DecodeOfEncodeIsTheInstruction : Prop :=
  (∀ i : Instr, i.wf = true → decode (encode i) = .ok i)
  ∧ ∀ t : SegTab, t.Admissible → ∀ i : Instr, i.wfWith t = true →
      decodeWith t (encodeWith t i) = .ok i

/-- The other way for the decoder port: each of the 256 bytes falls under one well-formed SEG.* row whose
word is that byte, at the table in force and at every admissible table.  That no other well-formed
operation has the word `sb b` rests on a choice of the model (DESIGN CHOICE, notes/assumptions/3.md): R60
gives DEC the same byte on `seg_in`, and the model writes it as a word of its own, `OpWord.dec b`. -/
def Obligations.EverySegmentByteHasOneRow : Prop :=
  (∀ b : Byte, (decodeSB b).wf = true ∧ encode (decodeSB b) = .sb b
    ∧ ∀ i : Instr, i.wf = true → encode i = .sb b → i = decodeSB b)
  ∧ ∀ t : SegTab, t.Admissible → ∀ b : Byte, (decodeSBWith t b).wfWith t = true
    ∧ encodeWith t (decodeSBWith t b) = .sb b
    ∧ ∀ i : Instr, i.wfWith t = true → encodeWith t i = .sb b → i = decodeSBWith t b

/-- R68 and R69 (decisions D2, D15): which operation an SP or RP word selects, by the masks and matches of the tables, and the
canonical words. -/
def Obligations.PortWordsByMaskAndMatch : Prop :=
  (∀ w : SyncWord, (decode (.sp w) = .ok .clr ↔ w &&& 0x200#10 = 0x200#10)
    ∧ (decode (.sp w) = .ok .snop ↔ w &&& 0x300#10 = 0x000#10)
    ∧ ∀ b, decode (.sp w) = .ok (.push b) ↔
        (w &&& 0x300#10 = 0x100#10 ∧ w.extractLsb' 0 8 = b))
  ∧ (∀ w : RelayWord, (decode (.rp w) = .ok .rnop ↔ w &&& 0b10#2 = 0b00#2)
    ∧ ∀ v, decode (.rp w) = .ok (.rset v) ↔ w = 0b10#2 ||| (BitVec.ofBool v).setWidth 2)
  ∧ (∀ p : Pins, (p.sp.getLsbD 9 = p.sessClear ∧ p.sp.getLsbD 8 = p.rxValid
      ∧ p.sp.extractLsb' 0 8 = p.rxData) ∧ p.rp.getLsbD 1 = p.relayWe ∧ p.rp.getLsbD 0 = p.relayOn)
  ∧ encode .clr = .sp 0x200#10 ∧ encode .snop = .sp 0x000#10
  ∧ (∀ b : Byte, encode (.push b) = .sp (0x100#10 + b.setWidth 10))
  ∧ encode (.rset true) = .rp 0x3#2 ∧ encode (.rset false) = .rp 0x2#2 ∧ encode .rnop = .rp 0x0#2

/-- R74 for the words of the three ports: every SB byte, SP word and RP word selects an operation, and an
operation's ignored bits do not change it. -/
def Obligations.EveryPortWordSelectsAnOperation : Prop :=
  (∀ b, ∃ i, decode (.sb b) = .ok i) ∧ (∀ w, ∃ i, decode (.sp w) = .ok i)
  ∧ (∀ w, ∃ i, decode (.rp w) = .ok i)
  ∧ (∀ w w' : SyncWord, w.getLsbD 9 = true → w'.getLsbD 9 = true → decode (.sp w) = decode (.sp w'))
  ∧ (∀ w w' : SyncWord, w.getLsbD 9 = false → w.getLsbD 8 = false → w'.getLsbD 9 = false →
      w'.getLsbD 8 = false → decode (.sp w) = decode (.sp w'))
  ∧ (∀ w w' : RelayWord, w.getLsbD 1 = false → w'.getLsbD 1 = false → decode (.rp w) = decode (.rp w'))

/-- Words written out from the spec's formats decode to their operations: one of each family. -/
def Obligations.WordsOfTheSpecDecode : Prop :=
  decode (.sb 0b11001111#8) = .ok (.seg3 true)
  ∧ decode (.dec 0b11011011#8) = .ok (.dec 0xDB#8)
  ∧ decode (.sp 0b0110011011#10) = .ok (.push 0x9B#8)
  ∧ decode (.sp 0b1101101101#10) = .ok .clr
  ∧ decode (.rp 0b11#2) = .ok (.rset true)
  ∧ decode (.rst 0b1#1) = .ok .reset
  ∧ decode (.hf 0x9B0712065B6D#48) = .ok (.hfHeight 0x06#8 0x5B#8 0x6D#8)

/-- R71 (decisions D12, D27): the event word lists the kind and the report's fields, most significant first, and is 0 below the
kind for the three other events. -/
def Obligations.EventWordLayout : Prop :=
  (∀ e, (eventWord e).extractLsb' 26 2 = eventKind e)
  ∧ (∀ r : HeightReport, r.n < 1024 →
      ((eventWord (.height r)).extractLsb' 16 10).toNat = r.n
      ∧ (eventWord (.height r)).getLsbD 15 = r.dp
      ∧ ((eventWord (.height r)).extractLsb' 11 4).toNat = r.g1.val
      ∧ ((eventWord (.height r)).extractLsb' 7 4).toNat = r.g2.val
      ∧ ((eventWord (.height r)).extractLsb' 3 4).toNat = r.g3.val
      ∧ (eventWord (.height r)).getLsbD 2 = r.p1 ∧ (eventWord (.height r)).getLsbD 1 = r.p2
      ∧ (eventWord (.height r)).getLsbD 0 = r.p3)
  ∧ (∀ e ∈ [Event.none, .blank, .invalid], (eventWord e).extractLsb' 0 26 = 0#26)

/-- R64 (decision D5): digits as themselves, blank 0xA, unrecognised 0xF, and no other code; on the `evt_g` pins only the
codes of digits. -/
def Obligations.DigitCodesOnThePins : Prop :=
  (∀ n : Fin 10, (digitCode (.digit n)).toNat = n.val) ∧ digitCode .blank = 0xA#4
  ∧ digitCode .unrecognised = 0xF#4
  ∧ (∀ g, digitCode g ∉ [0xB#4, 0xC#4, 0xD#4, 0xE#4])
  ∧ (∀ (t : SegTab) (p : Pins) s, (outputs t p s).evtG1.toNat ≤ 9 ∧ (outputs t p s).evtG2.toNat ≤ 9
      ∧ (outputs t p s).evtG3.toNat ≤ 9)

/-- R72 (decision D13): the pair of a HEIGHT event stands for `N`, or for `N / 10` where the flag is set; it is a tenth of a
whole number and at most 999. -/
def Obligations.HeightValueOfThePair : Prop :=
  ∀ r : HeightReport, (r.dp = false → heightValue r = (r.n : Rat))
    ∧ (r.dp = true → heightValue r = (r.n : Rat) / 10)
    ∧ (r.n ≤ 999 → 0 ≤ heightValue r ∧ heightValue r ≤ 999)
    ∧ ∃ k : Nat, 10 * heightValue r = (k : Rat)

/-- R76 and R77 (decision D21): every kind of line of the stimulus syntax, as tokens, and the operations it
stands for; numbers, comments and two whole lines.  `E(d)` is the point-less byte of digit `d` in the
SEGTAB in force, here any admissible one.  What R76 leaves open of the text form is in
notes/assumptions/12.md. -/
def Obligations.StimulusLinesExpand : Prop :=
  (∀ t, lineOps t [['R', 'E', 'S', 'E', 'T']] = some [.reset]
    ∧ lineOps t [['C', 'L', 'R']] = some [.clr]
    ∧ lineOps t [['S', 'N', 'O', 'P']] = some [.snop]
    ∧ lineOps t [['R', 'N', 'O', 'P']] = some [.rnop]
    ∧ lineOps t [['R', 'S', 'E', 'T'], ['O', 'N']] = some [.rset true]
    ∧ lineOps t [['R', 'S', 'E', 'T'], ['O', 'F', 'F']] = some [.rset false]
    ∧ lineOps t [['R', 'O', 'N']] = lineOps t [['R', 'S', 'E', 'T'], ['O', 'N']]
    ∧ lineOps t [['R', 'O', 'F', 'F']] = lineOps t [['R', 'S', 'E', 'T'], ['O', 'F', 'F']])
  ∧ (∀ t a x, parseByte a = some x →
      lineOps t [['P', 'U', 'S', 'H'], a] = some [.push x]
      ∧ lineOps t [['D', 'E', 'C'], a] = some [.dec x])
  ∧ (∀ t toks xs, List.Forall₂ (fun a x => parseByte a = some x) toks xs →
      lineOps t (['B', 'Y', 'T', 'E', 'S'] :: toks) = some (pushes xs))
  ∧ (∀ t a b c x y z, parseByte a = some x → parseByte b = some y → parseByte c = some z →
      lineOps t [['F', 'R', 'A', 'M', 'E'], a, b, c]
        = some (pushes [0x9B#8, 0x07#8, 0x12#8, x, y, z]))
  ∧ (∀ t : SegTab, t.Admissible → ∀ a b c x y z e1 e2 e3,
      parseDecimalDigit a = some x → parseDecimalDigit b = some y → parseDecimalDigit c = some z →
      decSeg t e1 = ⟨.digit x, false⟩ → decSeg t e2 = ⟨.digit y, false⟩ →
      decSeg t e3 = ⟨.digit z, false⟩ →
      lineOps t [['H', 'E', 'I', 'G', 'H', 'T'], [a, b, c]]
        = some (pushes [0x9B#8, 0x07#8, 0x12#8, e1, e2, e3])
      ∧ lineOps t [['H', 'E', 'I', 'G', 'H', 'T'], [a, b, '.', c]]
        = some (pushes [0x9B#8, 0x07#8, 0x12#8, e1, e2 + 0x80#8, e3]))
  ∧ (∀ c d x y, charDigit c = some x → charDigit d = some y →
      parseByte ['0', 'x', c, d] = some (BitVec.ofNat 8 (16 * x + y)))
  ∧ (parseByte ['1', '5', '5'] = some 0x9B#8 ∧ parseByte ['2', '5', '6'] = none)
  ∧ (∀ t line comment, parseLine t (line ++ '#' :: comment) = parseLine t line)
  ∧ parseLine segTab ['P', 'U', 'S', 'H', ' ', '0', 'x', '9', 'B'] = some [.push 0x9B#8]
  ∧ parseLine segTab ['H', 'E', 'I', 'G', 'H', 'T', ' ', '7', '2', '.', '5']
      = some (pushes [0x9B#8, 0x07#8, 0x12#8, 0x07#8, 0xDB#8, 0x6D#8])

/-! ### The step (`44_host_contract.md`, `60_exceptions.md`) -/

/-- A step runs what is presented next: the decoded operation, on the state with that move taken away; a
cycle of pins; a low `rst` pin and the absence of a move are idle steps; six bytes presented as one that
are no height frame are six ordinary PUSHes, the last of them NONE.  How moves are presented, and what the
two rejected words do, is the model's (notes/assumptions/2.md, 7.md; DEDUCED, 8.md). -/
def Obligations.StepRunsWhatIsPresented : Prop :=
  (∀ (w : OpWord) (i : Instr) (rest : List Stimulus) (s : State), decode w = .ok i →
    step { s with pending := .op w :: rest } = exec i { s with pending := rest })
  ∧ (∀ (t : SegTab) (w : OpWord) (i : Instr) (rest : List Stimulus) (s : State),
      decodeWith t w = .ok i →
      stepWith t { s with pending := .op w :: rest } = execWith t i { s with pending := rest })
  ∧ ∀ t st, StepAt t st →
    (∀ (p : Pins) (rest : List Stimulus) (s : State), st { s with pending := .cycle p :: rest }
      = .next (cycle t p { s with pending := rest }))
    ∧ (∀ (rest : List Stimulus) (s : State), st { s with pending := .op (.rst 0#1) :: rest }
      = .next { s with pending := rest, events := [], seg := none })
    ∧ (∀ s : State, st { s with pending := [] }
      = .next { s with pending := [], events := [], seg := none })
    ∧ (∀ (w : FrameWord) (rest : List Stimulus) (s : State),
      ¬ (w.extractLsb' 40 8 = 0x9B#8 ∧ w.extractLsb' 32 8 = 0x07#8 ∧ w.extractLsb' 24 8 = 0x12#8) →
      ∃ u, st { s with pending := .op (.hf w) :: rest } = .next u
        ∧ u.pending = rest ∧ u.events.length = 6 ∧ u.events.getLast? = some .none
        ∧ u.r1 = s.r1 ∧ u.r2 = s.r2
        ∧ u.win = ⟨some (w.extractLsb' 0 8), some (w.extractLsb' 8 8), some (w.extractLsb' 16 8),
            some (w.extractLsb' 24 8), some (w.extractLsb' 32 8)⟩)

/-- A word the host's interface presents is the next thing the machine runs. -/
def Obligations.PresentedTableWordRunsNext : Prop :=
  ∀ s nbits w i, decodeTableWord nbits w = some i →
    step (s.withFetchWord nbits w) = exec i s

/-- R180: every operation and every step, in every state, ends in a next state, and there is no fault; bad
input is reported: an undecodable digit byte of a frame as INVALID or BLANK, what is no frame as NONE. -/
def Obligations.NothingEverStops : Prop :=
  (∀ i s, ∃ u, exec i s = .next u) ∧ (∀ s, ∃ u, step s = .next u)
  ∧ (∀ t i s, ∃ u, execWith t i s = .next u) ∧ (∀ t s, ∃ u, stepWith t s = .next u)
  ∧ (Fault → False)
  ∧ (∀ (t : SegTab) b, t (b.extractLsb' 0 7) = .unrecognised → digitValue (decSeg t b).digit = -1)
  ∧ (∀ (t : SegTab) d1 d2 d3, (∃ d ∈ [d1, d2, d3], (decSeg t d).digit = .unrecognised) →
      classify t d1 d2 d3 = .invalid ∨ classify t d1 d2 d3 = .blank)
  ∧ (∀ (t : SegTab) w b, fires w = false → pushEvent t w b = .none)

/-- The frame of every operation: an operation of the decoder changes none of the seven items, one of the
relay driver only the relays, one of the synchronizer only the window; and only an operation of the
synchronizer outputs events.  That none changes what the host presents next (`pending`, DESIGN CHOICE,
notes/assumptions/2.md) and that only a decoder operation records a decoder output (`seg`, DESIGN CHOICE,
notes/assumptions/13.md) is the model's choice, not the spec's. -/
def Obligations.EachUnitChangesOnlyItsOwn : Prop :=
  ∀ t run, MeaningAt t run → ∀ i s u, run i s = .next u →
    u.pending = s.pending
    ∧ (isDecoderOp i = true → u.block = s.block ∧ u.events = [] ∧ u.seg.isSome)
    ∧ (isRelayOp i = true → u.win = s.win ∧ u.events = [] ∧ u.seg = none)
    ∧ (isSyncOp i = true → u.r1 = s.r1 ∧ u.r2 = s.r2 ∧ u.seg = none)
    ∧ (i = .reset → u.events = [] ∧ u.seg = none)

/-- The machine with SEGTAB as an argument (R7), taken at the table in force, is the machine of `exec` and
`step`; and at every table the operations that decode no segment byte mean the same. -/
def Obligations.TableInForceIsOneChoiceOfTheArgument : Prop :=
  (∀ i s, execWith segTab i s = exec i s) ∧ (∀ s, stepWith segTab s = step s)
  ∧ (∀ t s, execWith t .clr s = exec .clr s ∧ execWith t .snop s = exec .snop s
      ∧ execWith t .rnop s = exec .rnop s ∧ execWith t .reset s = exec .reset s
      ∧ ∀ v, execWith t (.rset v) s = exec (.rset v) s)
end

