-- ==== Sys2Proof/Laws/Decode.lean ====
section
/-! SUPPORT. The small lemmas of the formats: a field put into a word is the field taken from it. -/

namespace Sys2Proof

/-- The point of a segment byte put together from its fields (R61). -/
@[simp] theorem pointBit_segByte (p : Bool) (s : Pattern) : pointBit (segByte p s) = p := by
  revert p s; decide

/-- The pattern of a segment byte put together from its fields (R61). -/
@[simp] theorem patternBits_segByte (p : Bool) (s : Pattern) : patternBits (segByte p s) = s := by
  revert p s; decide

/-- A segment byte is its two fields (R61). -/
@[simp] theorem segByte_fields (b : Byte) : segByte (pointBit b) (patternBits b) = b := by
  revert b; decide

end Sys2Proof
end

