-- ==== Sys2Proof/Laws/State.lean ====
section
/-! SUPPORT. One lemma per field per update of the state, each true by unfolding, for `simp`. -/

namespace Sys2Proof.Machine

@[simp] theorem State.quiet_win (s : State) : s.quiet.win = s.win := rfl
@[simp] theorem State.quiet_r1 (s : State) : s.quiet.r1 = s.r1 := rfl
@[simp] theorem State.quiet_r2 (s : State) : s.quiet.r2 = s.r2 := rfl
@[simp] theorem State.quiet_pending (s : State) : s.quiet.pending = s.pending := rfl
@[simp] theorem State.quiet_events (s : State) : s.quiet.events = [] := rfl
@[simp] theorem State.quiet_seg (s : State) : s.quiet.seg = none := rfl

@[simp] theorem State.pushByte_win (s : State) (t : SegTab) (b : Byte) : (s.pushByte t b).win = s.win.shift b := rfl
@[simp] theorem State.pushByte_r1 (s : State) (t : SegTab) (b : Byte) : (s.pushByte t b).r1 = s.r1 := rfl
@[simp] theorem State.pushByte_r2 (s : State) (t : SegTab) (b : Byte) : (s.pushByte t b).r2 = s.r2 := rfl
@[simp] theorem State.pushByte_pending (s : State) (t : SegTab) (b : Byte) : (s.pushByte t b).pending = s.pending := rfl
@[simp] theorem State.pushByte_events (s : State) (t : SegTab) (b : Byte) : (s.pushByte t b).events = s.events ++ [pushEvent t s.win b] := rfl
@[simp] theorem State.pushByte_seg (s : State) (t : SegTab) (b : Byte) : (s.pushByte t b).seg = s.seg := rfl

@[simp] theorem State.clearWindow_win (s : State) : s.clearWindow.win = Window.empty := rfl
@[simp] theorem State.clearWindow_r1 (s : State) : s.clearWindow.r1 = s.r1 := rfl
@[simp] theorem State.clearWindow_r2 (s : State) : s.clearWindow.r2 = s.r2 := rfl
@[simp] theorem State.clearWindow_pending (s : State) : s.clearWindow.pending = s.pending := rfl
@[simp] theorem State.clearWindow_events (s : State) : s.clearWindow.events = s.events := rfl
@[simp] theorem State.clearWindow_seg (s : State) : s.clearWindow.seg = s.seg := rfl

@[simp] theorem State.setRelays_win (s : State) (on : Bool) : (s.setRelays on).win = s.win := rfl
@[simp] theorem State.setRelays_r1 (s : State) (on : Bool) : (s.setRelays on).r1 = on := rfl
@[simp] theorem State.setRelays_r2 (s : State) (on : Bool) : (s.setRelays on).r2 = on := rfl
@[simp] theorem State.setRelays_pending (s : State) (on : Bool) : (s.setRelays on).pending = s.pending := rfl
@[simp] theorem State.setRelays_events (s : State) (on : Bool) : (s.setRelays on).events = s.events := rfl
@[simp] theorem State.setRelays_seg (s : State) (on : Bool) : (s.setRelays on).seg = s.seg := rfl

@[simp] theorem State.resetBlock_win (s : State) : s.resetBlock.win = Window.empty := rfl
@[simp] theorem State.resetBlock_r1 (s : State) : s.resetBlock.r1 = false := rfl
@[simp] theorem State.resetBlock_r2 (s : State) : s.resetBlock.r2 = false := rfl
@[simp] theorem State.resetBlock_pending (s : State) : s.resetBlock.pending = s.pending := rfl
@[simp] theorem State.resetBlock_events (s : State) : s.resetBlock.events = s.events := rfl
@[simp] theorem State.resetBlock_seg (s : State) : s.resetBlock.seg = s.seg := rfl

@[simp] theorem State.showDec_win (s : State) (t : SegTab) (b : Byte) : (s.showDec t b).win = s.win := rfl
@[simp] theorem State.showDec_r1 (s : State) (t : SegTab) (b : Byte) : (s.showDec t b).r1 = s.r1 := rfl
@[simp] theorem State.showDec_r2 (s : State) (t : SegTab) (b : Byte) : (s.showDec t b).r2 = s.r2 := rfl
@[simp] theorem State.showDec_pending (s : State) (t : SegTab) (b : Byte) : (s.showDec t b).pending = s.pending := rfl
@[simp] theorem State.showDec_events (s : State) (t : SegTab) (b : Byte) : (s.showDec t b).events = s.events := rfl
@[simp] theorem State.showDec_seg (s : State) (t : SegTab) (b : Byte) : (s.showDec t b).seg = some (decSeg t b) := rfl

@[simp] theorem Window.empty_w0 : Window.empty.w0 = none := rfl
@[simp] theorem Window.empty_w1 : Window.empty.w1 = none := rfl
@[simp] theorem Window.empty_w2 : Window.empty.w2 = none := rfl
@[simp] theorem Window.empty_w3 : Window.empty.w3 = none := rfl
@[simp] theorem Window.empty_w4 : Window.empty.w4 = none := rfl

@[simp] theorem Window.shift_w0 (w : Window) (b : Byte) : (w.shift b).w0 = some b := rfl
@[simp] theorem Window.shift_w1 (w : Window) (b : Byte) : (w.shift b).w1 = w.w0 := rfl
@[simp] theorem Window.shift_w2 (w : Window) (b : Byte) : (w.shift b).w2 = w.w1 := rfl
@[simp] theorem Window.shift_w3 (w : Window) (b : Byte) : (w.shift b).w3 = w.w2 := rfl
@[simp] theorem Window.shift_w4 (w : Window) (b : Byte) : (w.shift b).w4 = w.w3 := rfl

/-- Clearing the outputs twice is clearing them once. -/
@[simp] theorem State.quiet_quiet (s : State) : s.quiet.quiet = s.quiet := rfl

/-- What earlier steps left on the outputs does not survive the start of a step. -/
@[simp] theorem State.quiet_of_outputs (s : State) (e : List Event) (g : Option Decoded) :
    State.quiet { s with events := e, seg := g } = s.quiet := rfl

end Sys2Proof.Machine
end

