-- ==== Sys2Proof/Laws/Ops.lean ====
section
/-! SUPPORT. For each shared operation, once, what it can do: the lemmas a proof cites instead of unfolding
the operation. -/

namespace Sys2Proof.Machine

/-- Recognition is the three equalities of R114. -/
theorem fires_iff (w : Window) :
    fires w = true ↔ w.w4 = some sentinel ∧ w.w3 = some hfLen ∧ w.w2 = some hfType := by
  simp [fires, and_assoc]

/-- A window whose oldest slot is EMPTY does not fire. -/
theorem not_fires_of_empty (w : Window) (h : w.w4 = none) : fires w = false := by
  simp [fires, h]

/-- A recognised frame never gives NONE: exactly one of BLANK, INVALID and HEIGHT (R116). -/
theorem classify_cases (t : SegTab) (d1 d2 d3 : Byte) :
    classify t d1 d2 d3 = .blank ∨ classify t d1 d2 d3 = .invalid
      ∨ ∃ g1 g2 g3, t (patternBits d1) = .digit g1 ∧ t (patternBits d2) = .digit g2
          ∧ t (patternBits d3) = .digit g3 ∧ d1 ≠ 0x00#8
          ∧ classify t d1 d2 d3
            = .height (heightReport g1 g2 g3 (pointBit d1) (pointBit d2) (pointBit d3)) := by
  unfold classify
  split
  · exact .inl rfl
  · rename_i hne
    simp only [decSeg]
    cases t (patternBits d1) <;> cases t (patternBits d2) <;> cases t (patternBits d3) <;>
      simp [hne]

/-- A recognised frame never gives NONE. -/
theorem classify_ne_none (t : SegTab) (d1 d2 d3 : Byte) : classify t d1 d2 d3 ≠ .none := by
  rcases classify_cases t d1 d2 d3 with h | h | ⟨g1, g2, g3, _, _, _, _, h⟩ <;> simp [h]

/-- Where the window does not fire, a PUSH gives NONE. -/
theorem pushEvent_of_not_fires (t : SegTab) (w : Window) (b : Byte) (h : fires w = false) :
    pushEvent t w b = .none := by
  simp [pushEvent, h]

/-- Where the window fires, a PUSH gives the classification of the three digit bytes. -/
theorem pushEvent_of_fires (t : SegTab) (w : Window) (b : Byte) (h : fires w = true) :
    pushEvent t w b = classify t (hundredsByte w) (tensByte w) b := by
  simp [pushEvent, h]

/-- The shift keeps the prefix fill of R24 (a). -/
theorem Window.shift_prefixFill (w : Window) (b : Byte) (h : w.PrefixFill) :
    (w.shift b).PrefixFill := by
  obtain ⟨h1, h2, h3, _⟩ := h
  exact ⟨fun _ => rfl, h1, h2, h3⟩

/-- Pushing no byte leaves the state. -/
@[simp] theorem State.pushBytes_nil (t : SegTab) (s : State) : s.pushBytes t [] = s := rfl

/-- Pushing bytes one after the other. -/
@[simp] theorem State.pushBytes_cons (t : SegTab) (b : Byte) (bs : List Byte) (s : State) :
    s.pushBytes t (b :: bs) = (s.pushByte t b).pushBytes t bs := rfl

/-- Pushing bytes leaves the relays, what is pending, and the decoder output. -/
theorem State.pushBytes_frame (t : SegTab) (bs : List Byte) (s : State) :
    (s.pushBytes t bs).r1 = s.r1 ∧ (s.pushBytes t bs).r2 = s.r2
      ∧ (s.pushBytes t bs).pending = s.pending ∧ (s.pushBytes t bs).seg = s.seg := by
  induction bs generalizing s with
  | nil => simp
  | cons b bs ih => simpa using ih (s.pushByte t b)

/-- Every byte pushed outputs one event. -/
theorem State.pushBytes_events_length (t : SegTab) (bs : List Byte) (s : State) :
    (s.pushBytes t bs).events.length = s.events.length + bs.length := by
  induction bs generalizing s with
  | nil => simp
  | cons b bs ih => simp [ih]; omega

/-- Pushing bytes keeps the invariants of R24. -/
theorem State.pushBytes_inv (t : SegTab) (bs : List Byte) (s : State) (h : s.Inv) :
    (s.pushBytes t bs).Inv := by
  induction bs generalizing s with
  | nil => exact h
  | cons b bs ih => exact ih _ ⟨s.win.shift_prefixFill b h.1, h.2⟩

/-- A run of no operations. -/
@[simp] theorem runOps_nil (run : Meaning) (s : State) : runOps run [] s = some (s, []) := rfl

/-- A run whose first operation ends in a next state. -/
theorem runOps_cons_next (run : Meaning) (i : Instr) (is : List Instr) (s t : State)
    (h : run i s = .next t) :
    runOps run (i :: is) s = (runOps run is t).map fun r => (r.1, t.events ++ r.2) := by
  simp [runOps, h]

/-- Every pattern is among the 128 listed. -/
theorem mem_allPatterns (s : Pattern) : s ∈ allPatterns := by
  simp only [allPatterns, List.mem_map, List.mem_range]
  exact ⟨s.toNat, s.isLt, by simp⟩

/-- Where a table has a pattern for a digit or blank, the row's pattern is one. -/
theorem rowPattern_of_exists (t : SegTab) (g : Digit) (h : ∃ s, t s = g) :
    t (rowPattern t g) = g := by
  obtain ⟨s, hs⟩ := h
  unfold rowPattern
  cases hf : allPatterns.find? fun s => decide (t s = g) with
  | none => exact absurd hs (by simpa using List.find?_eq_none.1 hf s (mem_allPatterns s))
  | some x => simpa using List.find?_some hf

/-- In an admissible table the row of a digit decodes to the digit (R7 (b)). -/
theorem rowPattern_digit {t : SegTab} (h : t.Admissible) (n : Fin 10) :
    t (rowPattern t (.digit n)) = .digit n :=
  rowPattern_of_exists t _ (h.digit_present n)

/-- In an admissible table the row of blank is the unlit pattern (R7 (a), (d)). -/
theorem rowPattern_blank {t : SegTab} (h : t.Admissible) : rowPattern t .blank = 0x00#7 :=
  h.only_zero_blank _ (rowPattern_of_exists t _ ⟨0x00#7, h.zero_blank⟩)

/-- In an admissible table a pattern that decodes to a digit is the pattern of the digit's row (R7 (d)). -/
theorem eq_rowPattern {t : SegTab} (h : t.Admissible) {s : Pattern} {n : Fin 10}
    (hs : t s = .digit n) : s = rowPattern t (.digit n) :=
  h.digit_unique _ _ n hs (rowPattern_digit h n)

/-- The default table meets the constraints of R7. -/
theorem segTab_admissible : SegTab.Admissible segTab where
  zero_blank := by decide
  digit_present := by decide
  only_zero_blank := by decide
  digit_unique := by
    have h : ∀ s : Pattern, ∀ n : Fin 10, segTab s = .digit n →
        ∃ r ∈ segRows, r.2 = .digit n ∧ s = r.1 := by decide
    have u : ∀ r ∈ segRows, ∀ r' ∈ segRows, r.2 = r'.2 → r.1 = r'.1 := by decide
    intro s s' n hs hs'
    obtain ⟨r, hr, hn, rfl⟩ := h s n hs
    obtain ⟨r', hr', hn', rfl⟩ := h s' n hs'
    exact u r hr r' hr' (hn.trans hn'.symm)

end Sys2Proof.Machine
end

