-- ==== Sys2Proof/Laws/PerInstr.lean ====
section
/-! SUPPORT. Statements made per instruction, one lemma per constructor of `Instr`. -/

/-- The canonical word of an operation is presented at the port of the operation's unit (R60). -/
def Sys2Proof.Laws.PortOfUnit.Statement (i : Sys2Proof.Instr) : Prop :=
  (Sys2Proof.encode i).unit = i.unit

theorem Sys2Proof.Laws.PortOfUnit.dec (b : Sys2Proof.Byte) :
    Sys2Proof.Laws.PortOfUnit.Statement (.dec b) := rfl

theorem Sys2Proof.Laws.PortOfUnit.segBlank (p : Bool) :
    Sys2Proof.Laws.PortOfUnit.Statement (.segBlank p) := rfl

theorem Sys2Proof.Laws.PortOfUnit.seg0 (p : Bool) :
    Sys2Proof.Laws.PortOfUnit.Statement (.seg0 p) := rfl

theorem Sys2Proof.Laws.PortOfUnit.seg1 (p : Bool) :
    Sys2Proof.Laws.PortOfUnit.Statement (.seg1 p) := rfl

theorem Sys2Proof.Laws.PortOfUnit.seg2 (p : Bool) :
    Sys2Proof.Laws.PortOfUnit.Statement (.seg2 p) := rfl

theorem Sys2Proof.Laws.PortOfUnit.seg3 (p : Bool) :
    Sys2Proof.Laws.PortOfUnit.Statement (.seg3 p) := rfl

theorem Sys2Proof.Laws.PortOfUnit.seg4 (p : Bool) :
    Sys2Proof.Laws.PortOfUnit.Statement (.seg4 p) := rfl

theorem Sys2Proof.Laws.PortOfUnit.seg5 (p : Bool) :
    Sys2Proof.Laws.PortOfUnit.Statement (.seg5 p) := rfl

theorem Sys2Proof.Laws.PortOfUnit.seg6 (p : Bool) :
    Sys2Proof.Laws.PortOfUnit.Statement (.seg6 p) := rfl

theorem Sys2Proof.Laws.PortOfUnit.seg7 (p : Bool) :
    Sys2Proof.Laws.PortOfUnit.Statement (.seg7 p) := rfl

theorem Sys2Proof.Laws.PortOfUnit.seg8 (p : Bool) :
    Sys2Proof.Laws.PortOfUnit.Statement (.seg8 p) := rfl

theorem Sys2Proof.Laws.PortOfUnit.seg9 (p : Bool) :
    Sys2Proof.Laws.PortOfUnit.Statement (.seg9 p) := rfl

theorem Sys2Proof.Laws.PortOfUnit.segInvalid (p : Bool) (s : Sys2Proof.Pattern) :
    Sys2Proof.Laws.PortOfUnit.Statement (.segInvalid p s) := rfl

theorem Sys2Proof.Laws.PortOfUnit.clr :
    Sys2Proof.Laws.PortOfUnit.Statement (.clr) := rfl

theorem Sys2Proof.Laws.PortOfUnit.push (b : Sys2Proof.Byte) :
    Sys2Proof.Laws.PortOfUnit.Statement (.push b) := rfl

theorem Sys2Proof.Laws.PortOfUnit.snop :
    Sys2Proof.Laws.PortOfUnit.Statement (.snop) := rfl

theorem Sys2Proof.Laws.PortOfUnit.rset (on : Bool) :
    Sys2Proof.Laws.PortOfUnit.Statement (.rset on) := rfl

theorem Sys2Proof.Laws.PortOfUnit.rnop :
    Sys2Proof.Laws.PortOfUnit.Statement (.rnop) := rfl

theorem Sys2Proof.Laws.PortOfUnit.reset :
    Sys2Proof.Laws.PortOfUnit.Statement (.reset) := rfl

theorem Sys2Proof.Laws.PortOfUnit.hfHeight (d1 : Sys2Proof.Byte) (d2 : Sys2Proof.Byte) (d3 : Sys2Proof.Byte) :
    Sys2Proof.Laws.PortOfUnit.Statement (.hfHeight d1 d2 d3) := rfl
end

