-- ==== Sys2Proof/Laws/Step.lean ====
section
/-! SUPPORT. What one step can do, said once: the cases of `step`, and the fields a cycle of pins leaves. -/

namespace Sys2Proof.Machine

/-- The four things a step can do, at any table and under any meaning: stand idle, run a decoded
operation, push six bytes that are no frame, or take one clock cycle. -/
theorem advance_cases {t : SegTab} {run : Meaning} {s u : State} (h : advance t run s = .next u) :
    u = s.quiet ∧ s.pending = []
    ∨ (∃ w rest, s.pending = .op w :: rest ∧
        ((∃ i, decodeWith t w = .ok i ∧ run i { s with pending := rest } = .next u)
        ∨ (decodeWith t w = .error .rstLow ∧ u = State.quiet { s with pending := rest })
        ∨ ∃ f, decodeWith t w = .error (.notHeightFrame f)
            ∧ u = (State.quiet { s with pending := rest }).pushBytes t (frameBytes f)))
    ∨ ∃ p rest, s.pending = .cycle p :: rest ∧ u = cycle t p { s with pending := rest } := by
  simp only [advance] at h
  split at h
  · rename_i hp
    cases h; exact .inl ⟨rfl, hp⟩
  · rename_i w rest hp
    refine .inr (.inl ⟨w, rest, hp, ?_⟩)
    simp only [runWord] at h
    split at h
    · rename_i i hd
      exact .inl ⟨i, hd, h⟩
    · rename_i hd
      cases h; exact .inr (.inl ⟨hd, rfl⟩)
    · rename_i f hd
      cases h; exact .inr (.inr ⟨f, hd, rfl⟩)
  · rename_i p rest hp
    cases h; exact .inr (.inr ⟨p, rest, hp, rfl⟩)

/-- What a step at the table in force can do. -/
theorem step_cases {s u : State} (h : step s = .next u) :
    u = s.quiet ∧ s.pending = []
    ∨ (∃ w rest, s.pending = .op w :: rest ∧
        ((∃ i, decode w = .ok i ∧ exec i { s with pending := rest } = .next u)
        ∨ (decode w = .error .rstLow ∧ u = State.quiet { s with pending := rest })
        ∨ ∃ f, decode w = .error (.notHeightFrame f)
            ∧ u = (State.quiet { s with pending := rest }).pushBytes segTab (frameBytes f)))
    ∨ ∃ p rest, s.pending = .cycle p :: rest ∧ u = cycle segTab p { s with pending := rest } :=
  advance_cases h

/-- A cycle leaves what is presented next, and shows DEC of `seg_in` whatever the other pins are. -/
theorem cycle_frame (t : SegTab) (p : Pins) (s : State) :
    (cycle t p s).pending = s.pending ∧ (cycle t p s).seg = some (decSeg t p.segIn) := by
  simp only [cycle, cycleRelay, cycleSync]
  split_ifs <;> simp

/-- The operation the synchronizer's pins select (R68, R122). -/
theorem decodeSP_sp (p : Pins) :
    decodeSP p.sp = if p.sessClear then .clr else if p.rxValid then .push p.rxData else .snop := by
  obtain ⟨_, c, v, d, _, _, _⟩ := p
  simp only [Pins.sp]
  cases c <;> cases v <;> revert d <;> decide

/-- The operation the relay driver's pins select (R69). -/
theorem decodeRP_rp (p : Pins) :
    decodeRP p.rp = if p.relayWe then .rset p.relayOn else .rnop := by
  obtain ⟨_, _, _, _, e, n, _⟩ := p
  simp only [Pins.rp]
  cases e <;> cases n <;> rfl

end Sys2Proof.Machine
end

