-- ==== Sys2Proof/Tests/Slice0.lean ====
section
/-! SUPPORT. The model's own tests: the one well-formedness check, decoding of words written out from the
spec's formats, single steps against `95_test_vectors.md`, and a witness for every statement that has
hypotheses.  Expected values come from the spec's tables and examples. -/

namespace Sys2Proof.Tests

open Sys2Proof Sys2Proof.Machine

/-- A state with a header and two digit bytes in the window, the relays as given (R113's example). -/
def headerState (d1 d2 : Byte) (on : Bool) : State :=
  { State.reset with
    win := ⟨some d2, some d1, some 0x12#8, some 0x07#8, some 0x9B#8⟩, r1 := on, r2 := on }

/-- The events of a next state. -/
def eventsOf : Host.Outcome State Fault Refusal → List Event
  | .next t => t.events
  | .fault _ => []
  | .refused _ => []

/-- The decoder output of a next state. -/
def segOf : Host.Outcome State Fault Refusal → Option Decoded
  | .next t => t.seg
  | .fault _ => none
  | .refused _ => none

/-- The seven items of a next state. -/
def blockOf : Host.Outcome State Fault Refusal → Option Block
  | .next t => some t.block
  | .fault _ => none
  | .refused _ => none

/-- A second admissible table: the patterns of 1 and 7 exchanged. -/
def otherTab : SegTab := fun s =>
  if s = 0x06#7 then .digit 7 else if s = 0x07#7 then .digit 1 else segTab s

theorem otherTab_admissible : SegTab.Admissible otherTab where
  zero_blank := by decide
  digit_present := by decide
  only_zero_blank := by decide
  digit_unique := by
    have h : ∀ s : Pattern, ∀ n : Fin 10, otherTab s = .digit n → s = rowPattern otherTab (.digit n) := by
      decide
    intro s s' n hs hs'
    exact (h s n hs).trans (h s' n hs').symm

/-- The operations' meanings at the table in force. -/
theorem meaning_exec : MeaningAt segTab exec := .inr ⟨rfl, rfl⟩

/-- The operations' meanings at another table. -/
theorem meaning_other : MeaningAt otherTab (execWith otherTab) := .inl rfl

/-- The step at the table in force. -/
theorem step_in_force : StepAt segTab step := .inr ⟨rfl, rfl⟩

/-! ### Well-formedness -/

/-- 0x3F is the pattern of SEG.0, so SEG.INVALID may not have it (R94). -/
theorem test_wf_refuses_segInvalid_with_a_row_pattern :
    (Instr.segInvalid false 0x3F#7).wf = false := by decide

/-- 0x00 is the pattern of SEG.BLANK, so SEG.INVALID may not have it (R94). -/
theorem test_wf_refuses_segInvalid_with_the_blank_pattern :
    (Instr.segInvalid true 0x00#7).wf = false := by decide

theorem test_wf_admits_segInvalid_off_the_table :
    (Instr.segInvalid false 0x40#7).wf = true := by decide

/-! ### Decoding, word by word from `30_encoding.md` -/

theorem test_decode_dec : decode (.dec 0b11011011#8) = .ok (.dec 0xDB#8) := by decide

/-- The rows of R63, the point bit first, then the segments g to a. -/
theorem test_decode_segment_rows :
    decode (.sb 0b10000000#8) = .ok (.segBlank true)
    ∧ decode (.sb 0b00111111#8) = .ok (.seg0 false) ∧ decode (.sb 0b10000110#8) = .ok (.seg1 true)
    ∧ decode (.sb 0b01011011#8) = .ok (.seg2 false) ∧ decode (.sb 0b11001111#8) = .ok (.seg3 true)
    ∧ decode (.sb 0b01100110#8) = .ok (.seg4 false) ∧ decode (.sb 0b11101101#8) = .ok (.seg5 true)
    ∧ decode (.sb 0b01111101#8) = .ok (.seg6 false) ∧ decode (.sb 0b10000111#8) = .ok (.seg7 true)
    ∧ decode (.sb 0b01111111#8) = .ok (.seg8 false) ∧ decode (.sb 0b11101111#8) = .ok (.seg9 true)
    ∧ decode (.sb 0b11000000#8) = .ok (.segInvalid true 0x40#7) := by decide

/-- The rows of R68; V22's word 0x36D is CLR with a byte beside it. -/
theorem test_decode_synchronizer_words :
    decode (.sp 0b1101101101#10) = .ok .clr ∧ decode (.sp 0b0110011011#10) = .ok (.push 0x9B#8)
    ∧ decode (.sp 0b0011111111#10) = .ok .snop := by decide

/-- The rows of R69; T6's word 0x1 is RNOP. -/
theorem test_decode_relay_words :
    decode (.rp 0b11#2) = .ok (.rset true) ∧ decode (.rp 0b10#2) = .ok (.rset false)
    ∧ decode (.rp 0b01#2) = .ok .rnop := by decide

theorem test_decode_reset : decode (.rst 0b1#1) = .ok .reset := by decide

/-- The frame of S2 as one number, first byte in the top bits (R65). -/
theorem test_decode_frame :
    decode (.hf 0x9B0712065B6D#48) = .ok (.hfHeight 0x06#8 0x5B#8 0x6D#8) := by decide

/-- The two rejected words: `rst` low, and V11's run with LEN 8. -/
theorem test_decode_rejects_by_name :
    decode (.rst 0b0#1) = .error .rstLow
    ∧ decode (.hf 0x9B0812065B6D#48) = .error (.notHeightFrame 0x9B0812065B6D#48) := by decide

/-- Words numbered as `opcode_table.json` numbers them. -/
theorem test_decodeTableWord_rows :
    decodeTableWord 8 0x80 = some (.segBlank true) ∧ decodeTableWord 8 0x3F = some (.seg0 false)
    ∧ decodeTableWord 16 0x200 = some .clr ∧ decodeTableWord 16 0x19B = some (.push 0x9B#8)
    ∧ decodeTableWord 16 0x000 = some .snop ∧ decodeTableWord 8 0x3 = some (.rset true)
    ∧ decodeTableWord 8 0x1 = some .reset ∧ decodeTableWord 2 0x0 = some .rnop
    ∧ decodeTableWord 48 0x9B0712065B6D = some (.hfHeight 0x06#8 0x5B#8 0x6D#8) := by decide

/-! ### Single steps against `95_test_vectors.md` -/

/-- The table of section 2.1: blank with point, the point kept with -1, the sentinel value, 8 with point. -/
theorem test_dec_vectors :
    segOf (exec (.dec 0x80#8) State.reset) = some ⟨.blank, true⟩
    ∧ segOf (exec (.dec 0xC0#8) State.reset) = some ⟨.unrecognised, true⟩
    ∧ segOf (exec (.dec 0x9B#8) State.reset) = some ⟨.unrecognised, true⟩
    ∧ segOf (exec (.dec 0xFF#8) State.reset) = some ⟨.digit 8, true⟩ := by decide

/-- The rows of the table as operations: 7 is also the LEN value, and an off-table shape is -1. -/
theorem test_seg_rows_show_digit :
    segOf (exec (.seg7 false) State.reset) = some ⟨.digit 7, false⟩
    ∧ segOf (exec (.segBlank false) State.reset) = some ⟨.blank, false⟩
    ∧ segOf (exec (.segInvalid false 0x77#7) State.reset) = some ⟨.unrecognised, false⟩ := by decide

/-- V1, V3, V4 and V5: the event of the sixth PUSH. -/
theorem test_push_height_vectors :
    eventsOf (exec (.push 0x6D#8) (headerState 0x06#8 0x5B#8 false))
        = [.height ⟨1, 2, 5, false, false, false, 125, false⟩]
    ∧ eventsOf (exec (.push 0x6D#8) (headerState 0x06#8 0xDB#8 false))
        = [.height ⟨1, 2, 5, false, true, false, 125, true⟩]
    ∧ eventsOf (exec (.push 0xEF#8) (headerState 0xEF#8 0xEF#8 false))
        = [.height ⟨9, 9, 9, true, true, true, 999, true⟩]
    ∧ eventsOf (exec (.push 0x3F#8) (headerState 0x3F#8 0x3F#8 false))
        = [.height ⟨0, 0, 0, false, false, false, 0, false⟩] := by decide

/-- V6 to V10: the order of the tests of R116. -/
theorem test_push_blank_and_invalid_vectors :
    eventsOf (exec (.push 0xAA#8) (headerState 0x00#8 0x55#8 false)) = [.blank]
    ∧ eventsOf (exec (.push 0x6D#8) (headerState 0x80#8 0x5B#8 false)) = [.blank]
    ∧ eventsOf (exec (.push 0x6D#8) (headerState 0x06#8 0x00#8 false)) = [.blank]
    ∧ eventsOf (exec (.push 0x6D#8) (headerState 0x06#8 0x40#8 false)) = [.invalid]
    ∧ eventsOf (exec (.push 0x40#8) (headerState 0x06#8 0x00#8 false)) = [.invalid] := by decide

/-- The event words of V1 and of P2, P3 and P4. -/
theorem test_event_words :
    eventWord (.height (heightReport 1 2 5 false false false)) = 0x47D0928#28
    ∧ eventWord (.height (heightReport 7 2 5 false true false)) = 0x6D5B92A#28
    ∧ eventWord (.height (heightReport 7 3 0 false true false)) = 0x6DAB982#28
    ∧ eventWord (.height (heightReport 3 0 0 false false true)) = 0x52C9801#28
    ∧ eventWord .blank = 0x8000000#28 ∧ eventWord .invalid = 0xC000000#28 := by decide

/-- X4: the first PUSH after RESET. -/
theorem test_push_after_reset :
    blockOf (exec (.push 0x6D#8) State.reset)
      = some ⟨⟨some 0x6D#8, none, none, none, none⟩, false, false⟩ := by decide

/-- R111's example: CLR empties the window and leaves the relays. -/
theorem test_clr_keeps_relays :
    blockOf (exec .clr (headerState 0x06#8 0x5B#8 true))
      = some ⟨⟨none, none, none, none, none⟩, true, true⟩ := by decide

/-- V21: SNOP keeps the window. -/
theorem test_snop_keeps_window :
    blockOf (exec .snop (headerState 0x06#8 0x5B#8 true))
      = some (headerState 0x06#8 0x5B#8 true).block := by decide

/-- T9: RSET OFF leaves the window. -/
theorem test_rset_off_keeps_window :
    blockOf (exec (.rset false) (headerState 0x06#8 0x5B#8 true))
      = some (headerState 0x06#8 0x5B#8 false).block := by decide

/-- T6: RNOP holds the relays. -/
theorem test_rnop_holds :
    blockOf (exec .rnop (headerState 0x06#8 0x5B#8 true))
      = some (headerState 0x06#8 0x5B#8 true).block := by decide

/-- X2: `rst = 1` with a byte and an RSET beside it gives the reset state and no event. -/
theorem test_reset_beats_push_and_rset :
    blockOf (.next (cycle segTab ⟨true, false, true, 0x6D#8, true, true, 0x00#8⟩
        (headerState 0x06#8 0x5B#8 true))) = some State.reset.block
    ∧ blockOf (exec .reset (headerState 0x06#8 0x5B#8 true)) = some State.reset.block := by decide

/-- S2 as one row: the frame ends in HEIGHT 12.5 whatever stood in the window. -/
theorem test_frame_row_ends_in_height :
    (eventsOf (exec (.hfHeight 0x86#8 0x5B#8 0x6D#8) State.reset)).getLast?
      = some (.height ⟨1, 2, 5, true, false, false, 125, true⟩) := by decide

/-- R7: the table is an argument of the machine, here with the patterns of 1 and 7 exchanged. -/
theorem test_step_takes_the_table :
    segOf (stepWith otherTab { State.reset with pending := [.op (.sb 0x86#8)] })
        = some ⟨.digit 7, true⟩
    ∧ segOf (step { State.reset with pending := [.op (.sb 0x86#8)] }) = some ⟨.digit 1, true⟩
    ∧ eventsOf (execWith otherTab (.push 0x6D#8) (headerState 0x06#8 0x07#8 false))
        = [.height ⟨7, 1, 5, false, false, false, 715, false⟩] := by decide

/-- R76, R77: a comment, and HEIGHT with a point on the tens digit byte (P2's second frame is 73.0). -/
theorem test_stimulus_lines :
    parseLine segTab ['C', 'L', 'R', ' ', '#', 'x'] = some [.clr]
    ∧ parseLine segTab ['H', 'E', 'I', 'G', 'H', 'T', ' ', '7', '3', '.', '0']
        = some (pushes [0x9B#8, 0x07#8, 0x12#8, 0x07#8, 0xCF#8, 0x3F#8])
    ∧ parseLine segTab ['P', 'U', 'S', 'H', ' ', '2', '5', '6'] = none := by decide

/-! ### Witnesses: every statement with hypotheses has states and operands that meet them -/

theorem witness_PointIsTakenWhateverTheDigit : SegTab.Admissible segTab := segTab_admissible

theorem witness_UnlitIsBlankInEveryTable : ∃ t : SegTab, t.Admissible := ⟨segTab, segTab_admissible⟩

theorem witness_PatternsOffTheTableAreUnrecognised : ∀ r ∈ segRows, r.1 ≠ 0x01#7 := by decide

theorem witness_DecIsTotalAndPure : MeaningAt segTab exec ∧ MeaningAt otherTab (execWith otherTab) :=
  ⟨meaning_exec, meaning_other⟩

theorem witness_SegRowsShowTheirDigit : otherTab.Admissible ∧ otherTab ≠ segTab :=
  ⟨otherTab_admissible, fun h => absurd (congrFun h 0x06#7) (by decide)⟩

theorem witness_SegInvalidShowsUnrecognised :
    (Instr.segInvalid true 0x01#7).wf = true ∧ (Instr.segInvalid false 0x7E#7).wf = true
    ∧ (Instr.segInvalid true 0x01#7).wfWith otherTab = true := by decide

theorem witness_SegRowActsAsDecOfItsByte : otherTab.Admissible := otherTab_admissible

theorem witness_ClrStartsASession :
    MeaningAt segTab exec ∧ State.reset.win = Window.empty ∧ [0x9B#8, 0x07#8, 0x12#8, 0x06#8, 0x5B#8].length ≤ 5
    ∧ (headerState 0x06#8 0x5B#8 true).win
        = ⟨some 0x5B#8, some 0x06#8, some 0x12#8, some 0x07#8, some 0x9B#8⟩ :=
  ⟨meaning_exec, by decide⟩

theorem witness_SnopDoesNotAgeTheWindow : MeaningAt segTab exec := meaning_exec

theorem witness_PushFollowsItsPseudocode :
    MeaningAt segTab exec ∧ (headerState 0x06#8 0x5B#8 false).win.PrefixFill ∧ State.reset.win.PrefixFill
    ∧ (headerState 0x06#8 0x5B#8 false).win
        = ⟨some 0x5B#8, some 0x06#8, some 0x12#8, some 0x07#8, some 0x9B#8⟩ :=
  ⟨meaning_exec, by decide⟩

theorem witness_FiresExactlyOnTheHeader : MeaningAt segTab exec ∧ State.reset.win.w4 = none :=
  ⟨meaning_exec, rfl⟩

/-- One witness for each row of the table of R116, at the bytes of V6, V10, V8 and V5. -/
theorem witness_RecognisedFrameIsClassified :
    MeaningAt segTab exec ∧ (headerState 0x00#8 0x55#8 false).win
        = ⟨some 0x55#8, some 0x00#8, some 0x12#8, some 0x07#8, some 0x9B#8⟩
    ∧ (0x06#8 ≠ 0x00#8 ∧ ∃ d ∈ [0x06#8, 0x00#8, 0x40#8], (decSeg segTab d).digit = .unrecognised)
    ∧ ((∀ d ∈ [0x80#8, 0x5B#8, 0x6D#8], (decSeg segTab d).digit ≠ .unrecognised)
        ∧ ∃ d ∈ [0x80#8, 0x5B#8, 0x6D#8], (decSeg segTab d).digit = .blank)
    ∧ (∀ d ∈ [0x3F#8, 0x3F#8, 0x3F#8], (decSeg segTab d).digit ≠ .unrecognised
        ∧ (decSeg segTab d).digit ≠ .blank) := ⟨meaning_exec, by decide⟩

theorem witness_HeightNumberAndDecimalFlag :
    segTab.Admissible ∧ MeaningAt segTab exec ∧ (headerState 0xEF#8 0x3F#8 false).win
        = ⟨some 0x3F#8, some 0xEF#8, some 0x12#8, some 0x07#8, some 0x9B#8⟩
    ∧ segTab ((0xEF#8).extractLsb' 0 7) = .digit 9 ∧ segTab ((0x3F#8).extractLsb' 0 7) = .digit 0
    ∧ segTab ((0x7F#8).extractLsb' 0 7) = .digit 8
    ∧ eventsOf (exec (.push 0x7F#8) (headerState 0xEF#8 0x3F#8 false))
        = [.height ⟨9, 0, 8, true, false, false, 908, true⟩] :=
  ⟨segTab_admissible, meaning_exec, by decide⟩

/-- The pins of the PUSH of a byte alone. -/
def pushPins (b : Byte) : Pins := ⟨false, false, true, b, false, false, 0x00#8⟩

theorem witness_HeightIsOnThePinsInTheCycleOfD3 :
    SegTab.Admissible segTab
    ∧ (headerState 0x06#8 0x5B#8 false).win
        = ⟨some 0x5B#8, some 0x06#8, some 0x12#8, some 0x07#8, some 0x9B#8⟩
    ∧ (pushPins 0x6D#8).rxValid = true ∧ (pushPins 0x6D#8).sessClear = false
    ∧ (pushPins 0x6D#8).rst = false
    ∧ segTab ((0x06#8).extractLsb' 0 7) = .digit 1 ∧ segTab ((0x5B#8).extractLsb' 0 7) = .digit 2
    ∧ segTab ((pushPins 0x6D#8).rxData.extractLsb' 0 7) = .digit 5 :=
  ⟨segTab_admissible, by decide⟩

/-- Kind 0, 2 and 3, and a cycle in which no byte is accepted. -/
theorem witness_OtherEventsCarryNoData :
    cycleEvent segTab (pushPins 0x6D#8) State.reset = .none
    ∧ cycleEvent segTab (pushPins 0xAA#8) (headerState 0x00#8 0x55#8 false) = .blank
    ∧ cycleEvent segTab (pushPins 0x40#8) (headerState 0x06#8 0x00#8 false) = .invalid
    ∧ accepts (pushPins 0x6D#8) = true
    ∧ accepts ⟨false, true, true, 0x6D#8, false, false, 0x00#8⟩ = false := by decide

theorem witness_EventsAreAFunctionOfTheStream : MeaningAt segTab exec := meaning_exec

theorem witness_WindowHoldsTheLastFiveBytes :
    MeaningAt segTab exec ∧ Instr.clr ∈ [Instr.clr, Instr.reset]
    ∧ Instr.reset ∈ [Instr.clr, Instr.reset] := ⟨meaning_exec, by decide⟩

theorem witness_FirstFivePushesReportNone :
    MeaningAt segTab exec ∧ [0x9B#8, 0x07#8, 0x12#8, 0x06#8, 0x5B#8].length ≤ 5
    ∧ Instr.reset ∈ [Instr.clr, Instr.reset] := ⟨meaning_exec, by decide⟩

/-- V16: reports three pushes apart, the first INVALID, the second a HEIGHT. -/
theorem witness_ReportsAreThreePushesApart :
    MeaningAt segTab exec
    ∧ (segTab ((0x9B#8).extractLsb' 0 7) = .unrecognised ∨ segTab ((0x12#8).extractLsb' 0 7) = .unrecognised)
    ∧ (runOps exec (.clr :: pushes
        [0x9B#8, 0x07#8, 0x12#8, 0x9B#8, 0x07#8, 0x12#8, 0x06#8, 0x5B#8, 0x6D#8]) State.reset).map
      (fun r => (r.2[5]?, r.2[8]?))
      = some (some .invalid, some (.height ⟨1, 2, 5, false, false, false, 125, false⟩)) :=
  ⟨meaning_exec, by decide⟩

/-- V19's last PUSH is a HEIGHT at index 6 (one sentinel too many before the frame). -/
theorem witness_HeightOnlyFromAValidFrame :
    MeaningAt segTab exec ∧ (runOps exec (.clr :: pushes [0x9B#8, 0x9B#8, 0x07#8, 0x12#8, 0x66#8, 0x07#8, 0x6F#8]) State.reset).map
      (fun r => r.2[6]?) = some (some (.height ⟨4, 7, 9, false, false, false, 479, false⟩)) :=
  ⟨meaning_exec, by decide⟩

theorem witness_EverySentinelGetsItsOwnTest : MeaningAt segTab exec := meaning_exec

theorem witness_FrameRowActsAsItsSixPushes : MeaningAt segTab exec := meaning_exec

theorem witness_EarlierOutputsAreNeverRead : MeaningAt segTab exec ∧ StepAt segTab step :=
  ⟨meaning_exec, step_in_force⟩

theorem witness_NoSentinelNoReport :
    MeaningAt segTab exec
    ∧ 0x9B#8 ∉ [0x00#8, 0x07#8, 0x12#8, 0x06#8, 0x5B#8, 0x6D#8, 0x9D#8, 0x9D#8] :=
  ⟨meaning_exec, by decide⟩

/-- One wrong byte at a time (V11, V12), and an EMPTY oldest slot. -/
theorem witness_OtherSixByteRunsReportNone :
    MeaningAt segTab exec
    ∧ (0x08#8 ≠ 0x07#8 ∨ 0x12#8 ≠ 0x12#8) ∧ (0x07#8 ≠ 0x07#8 ∨ 0x11#8 ≠ 0x12#8)
    ∧ State.reset.win.w4 ≠ some 0x9B#8 := ⟨meaning_exec, by decide⟩

theorem witness_EmptyActsAsAnyOtherByte :
    MeaningAt segTab exec ∧ (0x00#8 ≠ 0x9B#8) ∧ State.reset.win.PrefixFill
    ∧ (Window.shift Window.empty 0x9B#8).PrefixFill := ⟨meaning_exec, by decide⟩

theorem witness_RelaysAreWrittenAsAPair :
    MeaningAt segTab exec ∧ StepAt segTab step ∧ (∃ t, exec (.rset true) State.reset = .next t) ∧ ∃ t, step State.reset = .next t :=
  ⟨meaning_exec, step_in_force, ⟨_, rfl⟩, ⟨_, rfl⟩⟩

theorem witness_OnlyRsetAndResetChangeRelays :
    MeaningAt segTab exec ∧ (∃ t, exec (.push 0x00#8) (headerState 0x06#8 0x5B#8 true) = .next t)
    ∧ (∀ v, Instr.push 0x00#8 ≠ .rset v) ∧ Instr.push 0x00#8 ≠ .reset
    ∧ (pushPins 0x00#8).rst = false ∧ (pushPins 0x00#8).relayWe = false :=
  ⟨meaning_exec, ⟨_, rfl⟩, by decide, by decide, by decide⟩

theorem witness_RelaysAndSynchronizerAreIndependent :
    MeaningAt segTab exec ∧ (∃ t, exec (.rset true) State.reset = .next t ∧ isRelayOp (.rset true) = true)
    ∧ ∃ t, exec .clr State.reset = .next t ∧ isSyncOp .clr = true :=
  ⟨meaning_exec, ⟨_, rfl, rfl⟩, ⟨_, rfl, rfl⟩⟩

theorem witness_ResetOverridesEverything :
    (Pins.mk true true true 0x6D#8 true true 0xDB#8).rst = true
    ∧ (Pins.mk true false false 0x00#8 false false 0x00#8).rst = true := by decide

/-- A state with the invariants, relays on, a frame half in, and one more byte presented. -/
theorem witness_StepKeepsTheInvariants :
    StepAt segTab step ∧ (headerState 0x06#8 0x5B#8 true).Inv
    ∧ ∃ t, step { headerState 0x06#8 0x5B#8 true with pending := [.op (.sp 0x16D#10)] } = .next t :=
  ⟨step_in_force, by decide, ⟨_, rfl⟩⟩

theorem witness_InterleavingDoesNotMatter :
    MeaningAt segTab exec ∧ (∀ i ∈ [Instr.push 0x9B#8, .rset true, .dec 0x00#8], i ≠ .reset)
    ∧ (∀ i ∈ [Instr.rset true, .push 0x9B#8], i ≠ .reset)
    ∧ [Instr.push 0x9B#8, .rset true, .dec 0x00#8].filter isSyncOp
        = [Instr.rset true, .push 0x9B#8].filter isSyncOp
    ∧ [Instr.push 0x9B#8, .rset true, .dec 0x00#8].filter isRelayOp
        = [Instr.rset true, .push 0x9B#8].filter isRelayOp := ⟨meaning_exec, by decide⟩

theorem witness_IdleStepsAreInvisible : MeaningAt segTab exec := meaning_exec

theorem witness_CycleIsTheOperationsOfItsPins : MeaningAt segTab exec := meaning_exec

/-- V22: the SP word 0x36D, and the pins it stands for. -/
theorem witness_ClrBeatsAByteInTheSameCycle :
    (Pins.mk false true true 0x6D#8 false false 0x00#8).sp = 0x36D#10
    ∧ (Pins.mk false true true 0x6D#8 false false 0x00#8).rst = false
    ∧ (0x36D#10).getLsbD 9 = true := by decide

theorem witness_DecodeOfEncodeIsTheInstruction :
    (Instr.hfHeight 0xFF#8 0x00#8 0x9B#8).wf = true ∧ (Instr.segInvalid true 0x7E#7).wf = true
    ∧ otherTab.Admissible ∧ (Instr.segInvalid true 0x7E#7).wfWith otherTab = true :=
  ⟨by decide, by decide, otherTab_admissible, by decide⟩

theorem witness_EverySegmentByteHasOneRow :
    (Instr.seg3 true).wf = true ∧ encode (.seg3 true) = .sb 0xCF#8
    ∧ otherTab.Admissible ∧ (Instr.seg7 true).wfWith otherTab = true
    ∧ encodeWith otherTab (.seg7 true) = .sb 0x86#8 :=
  ⟨by decide, by decide, otherTab_admissible, by decide, by decide⟩

theorem witness_EveryPortWordSelectsAnOperation :
    (0x200#10).getLsbD 9 = true ∧ (0x3FF#10).getLsbD 9 = true
    ∧ ((0x000#10).getLsbD 9 = false ∧ (0x000#10).getLsbD 8 = false)
    ∧ ((0x0FF#10).getLsbD 9 = false ∧ (0x0FF#10).getLsbD 8 = false)
    ∧ (0b00#2).getLsbD 1 = false ∧ (0b01#2).getLsbD 1 = false := by decide

theorem witness_EventWordLayout :
    (heightReport 9 9 9 true true true).n < 1024 ∧ Event.invalid ∈ [Event.none, .blank, .invalid] := by
  decide

theorem witness_HeightValueOfThePair :
    (heightReport 9 9 9 false false false).dp = false ∧ (heightReport 0 0 0 false true false).dp = true
    ∧ (heightReport 9 9 9 false false false).n ≤ 999 := by decide

/-- The tokens of V1's frame, `12.5` and `0x9B`. -/
theorem witness_StimulusLinesExpand :
    parseByte ['0', 'x', '0', '6'] = some 0x06#8 ∧ parseByte ['9', '1'] = some 0x5B#8
    ∧ parseByte ['0', 'x', '6', 'd'] = some 0x6D#8
    ∧ List.Forall₂ (fun a x => parseByte a = some x) [['0', 'x', '0', '6'], ['9', '1']] [0x06#8, 0x5B#8]
    ∧ segTab.Admissible
    ∧ parseDecimalDigit '1' = some 1 ∧ parseDecimalDigit '2' = some 2 ∧ parseDecimalDigit '5' = some 5
    ∧ decSeg segTab 0x06#8 = ⟨.digit 1, false⟩ ∧ decSeg segTab 0x5B#8 = ⟨.digit 2, false⟩
    ∧ decSeg segTab 0x6D#8 = ⟨.digit 5, false⟩
    ∧ charDigit '9' = some 9 ∧ charDigit 'B' = some 11 :=
  ⟨by decide, by decide, by decide, .cons (by decide) (.cons (by decide) .nil), segTab_admissible,
    by decide⟩

/-- A presented PUSH, and words that differ from a height frame in one byte (V13, V11, V12) or in all. -/
theorem witness_StepRunsWhatIsPresented :
    decode (.sp 0x19B#10) = .ok (.push 0x9B#8) ∧ decodeWith otherTab (.sb 0x86#8) = .ok (.seg7 true)
    ∧ StepAt segTab step
    ∧ (0x9A0712065B6D#48).extractLsb' 40 8 ≠ 0x9B#8 ∧ (0x9B0812065B6D#48).extractLsb' 32 8 ≠ 0x07#8
    ∧ (0x9B0711065B6D#48).extractLsb' 24 8 ≠ 0x12#8
    ∧ ¬ ((0x000000065B6D#48).extractLsb' 40 8 = 0x9B#8 ∧ (0x000000065B6D#48).extractLsb' 32 8 = 0x07#8
        ∧ (0x000000065B6D#48).extractLsb' 24 8 = 0x12#8) :=
  ⟨by decide, by decide, step_in_force, by decide⟩

theorem witness_NothingEverStops :
    segTab ((0xC0#8).extractLsb' 0 7) = .unrecognised
    ∧ (∃ d ∈ [0x00#8, 0x55#8, 0x6D#8], (decSeg segTab d).digit = .unrecognised)
    ∧ (∃ d ∈ [0x06#8, 0x5B#8, 0x40#8], (decSeg segTab d).digit = .unrecognised)
    ∧ fires Window.empty = false := by decide

theorem witness_PresentedTableWordRunsNext :
    decodeTableWord 16 0x19B = some (.push 0x9B#8) ∧ decodeTableWord 8 0x2 = some (.rset false) := by
  decide

theorem witness_EachUnitChangesOnlyItsOwn :
    MeaningAt segTab exec ∧ (∃ t, exec (.seg9 true) State.reset = .next t ∧ isDecoderOp (.seg9 true) = true)
    ∧ (∃ t, exec .rnop State.reset = .next t ∧ isRelayOp .rnop = true)
    ∧ (∃ t, exec (.hfHeight 0x06#8 0x5B#8 0x6D#8) State.reset = .next t
        ∧ isSyncOp (.hfHeight 0x06#8 0x5B#8 0x6D#8) = true)
    ∧ ∃ t, exec .reset State.reset = .next t :=
  ⟨meaning_exec, ⟨_, rfl, rfl⟩, ⟨_, rfl, rfl⟩, ⟨_, rfl, rfl⟩, ⟨_, rfl⟩⟩

end Sys2Proof.Tests
end

section
/-! The output pins of a cycle against its step (R30), and the reset values (R29). -/

namespace Sys2Proof.Machine

/-- The relay driver's part of a cycle outputs no event (R147). -/
@[simp] theorem cycleRelay_events (p : Pins) (s : State) : (cycleRelay p s).events = s.events := by
  unfold cycleRelay
  split <;> simp

/-- The synchronizer's part of a cycle outputs one event where CLR does not hide the byte (R122). -/
theorem cycleSync_events (t : SegTab) (p : Pins) (s : State) :
    (cycleSync t p s).events
      = if p.rxValid && !p.sessClear then s.events ++ [pushEvent t s.win p.rxData] else s.events := by
  unfold cycleSync
  cases p.sessClear <;> cases p.rxValid <;> simp

/-- A cycle outputs the event of the byte it accepts, and nothing otherwise (R28, R30). -/
theorem cycle_events (t : SegTab) (p : Pins) (s : State) :
    (cycle t p s).events = if accepts p then [cycleEvent t p s] else [] := by
  cases hr : p.rst with
  | true => simp [cycle, accepts, hr]
  | false =>
    simp only [cycle, hr, Bool.false_eq_true, if_false, cycleRelay_events, cycleSync_events,
      cycleEvent, accepts]
    cases p.rxValid && !p.sessClear <;> simp

/-- A cycle that accepts no byte has the event NONE. -/
theorem cycleEvent_of_not_accepts (t : SegTab) (p : Pins) (s : State) (h : accepts p = false) :
    cycleEvent t p s = .none := by
  simp [cycleEvent, h]

/-- A kind above the fields of a report, one after the other from the top, is the kind above the 26 bits
of the report (R71). -/
theorem append_reportBits (k : BitVec 2) (r : HeightReport) :
    k ++ BitVec.ofNat 10 r.n ++ BitVec.ofBool r.dp ++ BitVec.ofNat 4 r.g1.val
      ++ BitVec.ofNat 4 r.g2.val ++ BitVec.ofNat 4 r.g3.val ++ BitVec.ofBool r.p1
      ++ BitVec.ofBool r.p2 ++ BitVec.ofBool r.p3 = k ++ reportBits r := by
  simp only [reportBits, BitVec.append_assoc, BitVec.cast_eq]

/-- The event pins side by side, in the order of the event word (R71). -/
def Outputs.eventPins (o : Outputs) : BitVec 28 :=
  o.evtKind ++ o.evtN ++ BitVec.ofBool o.evtDp ++ o.evtG1 ++ o.evtG2 ++ o.evtG3
    ++ BitVec.ofBool o.evtP1 ++ BitVec.ofBool o.evtP2 ++ BitVec.ofBool o.evtP3

/-- The event pins are the event word of the cycle's event, HEIGHT with its report and the three others
with 0 below the kind (R71). -/
theorem outputs_eventPins (t : SegTab) (p : Pins) (s : State) :
    (outputs t p s).eventPins = eventWord (cycleEvent t p s) := by
  simp only [Outputs.eventPins, outputs]
  cases cycleEvent t p s with
  | height r => exact append_reportBits (eventKind (.height r)) r
  | none => decide
  | blank => decide
  | invalid => decide

/-- Settles O46, by whether the cycle accepts a byte: its step outputs just `cycleEvent`, and the event
pins are the event word of `cycleEvent` either way. -/
theorem pinsCarryTheEventOfTheCycle : Obligations.PinsCarryTheEventOfTheCycle := by
  intro t p s
  have hvalid : (outputs t p s).evtValid = accepts p := rfl
  have hpins := outputs_eventPins t p s
  rw [Outputs.eventPins] at hpins
  rw [hvalid, cycle_events]
  refine ⟨rfl, ?_, ?_, hpins.trans ?_, rfl, rfl, rfl, rfl⟩
  · cases accepts p <;> simp
  · cases accepts p <;> simp
  · cases h : accepts p with
    | true => rfl
    | false => rw [cycleEvent_of_not_accepts t p s h]; rfl

/-- Settles O37: RESET is `resetBlock` on the quiet state, and its block is the reset block. -/
theorem resetStateValues : Obligations.ResetStateValues :=
  ⟨rfl, rfl, rfl, fun s => ⟨s.quiet.resetBlock, rfl, rfl⟩⟩

end Sys2Proof.Machine
end

section
/-! Runs of PUSHes (R113, R121), and the runs that are no height frame (R67). -/

namespace Sys2Proof.Machine

/-- PUSH under every meaning at a table: the outputs are cleared, and the byte is pushed (R113). -/
theorem MeaningAt.push {t : SegTab} {run : Meaning} (h : MeaningAt t run) (b : Byte) (s : State) :
    run (.push b) s = .next (s.quiet.pushByte t b) := by
  rcases h with rfl | ⟨rfl, rfl⟩ <;> rfl

/-- A run of PUSHes outputs the event of its first byte, then those of the rest on the shifted window. -/
theorem runOps_pushes_cons {t : SegTab} {run : Meaning} (h : MeaningAt t run) (b : Byte)
    (bs : List Byte) (s : State) :
    runOps run (pushes (b :: bs)) s
      = (runOps run (pushes bs) (s.quiet.pushByte t b)).map
          fun r => (r.1, pushEvent t s.win b :: r.2) := by
  simpa [pushes] using runOps_cons_next run (.push b) (pushes bs) s _ (h.push b s)

/-- The last event of a run of PUSHes is that of its last byte, on the window the bytes before it leave
(R113, R121). -/
theorem runOps_pushes_getLast? {t : SegTab} {run : Meaning} (h : MeaningAt t run) (bs : List Byte)
    (b : Byte) (s : State) :
    ∃ u evs, runOps run (pushes (bs ++ [b])) s = some (u, evs)
      ∧ evs.getLast? = some (pushEvent t (bs.foldl Window.shift s.win) b) := by
  induction bs generalizing s with
  | nil => exact ⟨_, _, runOps_pushes_cons h b [] s, rfl⟩
  | cons a as ih =>
    obtain ⟨u, evs, hrun, hlast⟩ := ih (s.quiet.pushByte t a)
    refine ⟨u, pushEvent t s.win a :: evs, ?_, ?_⟩
    · rw [List.cons_append, runOps_pushes_cons h, hrun]
      rfl
    · rw [List.getLast?_cons, hlast]
      rfl

/-- A PUSH while the sentinel is not at `W[4]` gives NONE (R67, R114). -/
theorem pushEvent_of_no_sentinel (t : SegTab) {w : Window} (b : Byte) (h : w.w4 ≠ some sentinel) :
    pushEvent t w b = .none := by
  refine pushEvent_of_not_fires t w b (Bool.eq_false_iff.2 fun hf => ?_)
  exact h ((fires_iff w).1 hf).1

/-- A PUSH while `W[3]` and `W[2]` are not LEN and TYPE gives NONE (R67, R114). -/
theorem pushEvent_of_other_header (t : SegTab) {w : Window} (b : Byte)
    (h : w.w3 ≠ some hfLen ∨ w.w2 ≠ some hfType) : pushEvent t w b = .none := by
  refine pushEvent_of_not_fires t w b (Bool.eq_false_iff.2 fun hf => ?_)
  obtain ⟨-, hlen, htype⟩ := (fires_iff w).1 hf
  exact h.elim (· hlen) (· htype)

/-- Settles O28: the sixth byte is pushed on a window whose `W[3]` and `W[2]` are the run's second and
third byte, and no PUSH fires without the sentinel at `W[4]`. -/
theorem otherSixByteRunsReportNone : Obligations.OtherSixByteRunsReportNone := by
  refine ⟨fun t run h b1 b2 b3 b4 b5 s hne => ?_, fun t run h b s hw => ?_⟩
  · obtain ⟨u, evs, hrun, hlast⟩ := runOps_pushes_getLast? h [0x9B#8, b1, b2, b3, b4] b5 s
    have hnone := pushEvent_of_other_header t (w := [0x9B#8, b1, b2, b3, b4].foldl Window.shift s.win) b5
      (by simpa [hfLen, hfType] using hne)
    exact ⟨u, evs, hrun, hlast.trans (congrArg some hnone)⟩
  · refine ⟨_, h.push b s, ?_⟩
    simpa using pushEvent_of_no_sentinel t b hw

end Sys2Proof.Machine
end

section
/-! What the output pins and the event word carry: digit codes (R64), the fields of the event word (R71),
and the value a HEIGHT event stands for (R72). -/

namespace Sys2Proof.Machine

/-- The code of a digit is the digit (R64). -/
@[simp] theorem toNat_digitCode_digit (n : Fin 10) : (digitCode (.digit n)).toNat = n.val := by
  revert n; decide

/-- A digit pin carries the code of the report's digit, or 0 where there is no report: at most 9. -/
theorem digitPin_le_nine (o : Option HeightReport) (g : HeightReport → Fin 10) :
    ((o.map fun h => digitCode (.digit (g h))).getD 0#4).toNat ≤ 9 := by
  cases o with
  | none => exact Nat.zero_le 9
  | some r => simpa using Nat.le_of_lt_succ (g r).isLt

/-- Settles O53: the code by the kind of digit, and each `evt_g` pin by `digitPin_le_nine`. -/
theorem digitCodesOnThePins : Obligations.DigitCodesOnThePins := by
  refine ⟨toNat_digitCode_digit, rfl, rfl, fun g => ?_, fun t p s => ?_⟩
  · cases g with
    | digit n => revert n; decide
    | blank => decide
    | unrecognised => decide
  · exact ⟨digitPin_le_nine _ HeightReport.g1, digitPin_le_nine _ HeightReport.g2,
      digitPin_le_nine _ HeightReport.g3⟩

/-- The 26 bits under the kind of an event word: the report's, or 0 (R71). -/
def eventLowBits (e : Event) : BitVec 26 := ((eventReport e).map reportBits).getD 0#26

/-- An event word is its kind above its 26 lower bits (R71). -/
theorem eventWord_eq_append (e : Event) : eventWord e = eventKind e ++ eventLowBits e := by
  cases e <;> rfl

/-- A field below the kind is a field of the lower bits. -/
theorem eventWord_extractLsb' (e : Event) (start len : Nat) (h : start + len ≤ 26) :
    (eventWord e).extractLsb' start len = (eventLowBits e).extractLsb' start len := by
  rw [eventWord_eq_append, BitVec.extractLsb'_append_eq_of_add_le h]

/-- A bit below the kind is a bit of the lower bits. -/
theorem eventWord_getLsbD (e : Event) (i : Nat) (h : i < 26) :
    (eventWord e).getLsbD i = (eventLowBits e).getLsbD i := by
  rw [eventWord_eq_append, BitVec.getLsbD_append, if_pos h]

/-- The number stands in the top ten of the report's bits (R71). -/
theorem reportBits_n (r : HeightReport) : (reportBits r).extractLsb' 16 10 = BitVec.ofNat 10 r.n := by
  simp only [reportBits, BitVec.extractLsb'_append_eq_ite]
  simp

/-- The codes of the three digits stand in four bits each (R71). -/
theorem reportBits_digits (r : HeightReport) :
    (reportBits r).extractLsb' 11 4 = digitCode (.digit r.g1)
      ∧ (reportBits r).extractLsb' 7 4 = digitCode (.digit r.g2)
      ∧ (reportBits r).extractLsb' 3 4 = digitCode (.digit r.g3) := by
  simp only [reportBits, digitCode, BitVec.extractLsb'_append_eq_ite]
  simp

/-- The combined flag stands above the digits, the three points below them (R71). -/
theorem reportBits_points (r : HeightReport) :
    (reportBits r).getLsbD 15 = r.dp ∧ (reportBits r).getLsbD 2 = r.p1
      ∧ (reportBits r).getLsbD 1 = r.p2 ∧ (reportBits r).getLsbD 0 = r.p3 := by
  simp only [reportBits, BitVec.getLsbD_append]
  simp

/-- Settles O52: below the kind stand the report's bits, field by field as `reportBits_n`,
`reportBits_digits` and `reportBits_points` say, or 0 for the events without a report. -/
theorem eventWordLayout : Obligations.EventWordLayout := by
  refine ⟨fun e => ?_, fun r hn => ?_, ?_⟩
  · rw [eventWord_eq_append, BitVec.extractLsb'_append_eq_left]
  · have hlow : eventLowBits (.height r) = reportBits r := rfl
    obtain ⟨hg1, hg2, hg3⟩ := reportBits_digits r
    obtain ⟨hdp, hp1, hp2, hp3⟩ := reportBits_points r
    simp only [eventWord_extractLsb', eventWord_getLsbD, hlow, reportBits_n, hg1, hg2, hg3, hdp, hp1,
      hp2, hp3, Nat.reduceAdd, Nat.reduceLeDiff, Nat.reduceLT, toNat_digitCode_digit,
      BitVec.toNat_ofNat, Nat.mod_eq_of_lt hn, and_self]
  · decide

/-- Ten times a height value is the whole number `N` where the flag is set, and `10 * N` where not (R72). -/
theorem ten_mul_heightValue (r : HeightReport) :
    10 * heightValue r = ((if r.dp then r.n else 10 * r.n : Nat) : Rat) := by
  unfold heightValue
  cases r.dp with
  | true => simp [mul_div_cancel₀]
  | false => simp

/-- Settles O54: the bounds follow from those of ten times the value. -/
theorem heightValueOfThePair : Obligations.HeightValueOfThePair := by
  intro r
  refine ⟨fun h => by simp [heightValue, h], fun h => by simp [heightValue, h], fun hn => ?_,
    _, ten_mul_heightValue r⟩
  have hle : (if r.dp then r.n else 10 * r.n) ≤ 9990 := by split <;> omega
  have h0 : (0 : Rat) ≤ 10 * heightValue r := ten_mul_heightValue r ▸ Nat.cast_nonneg _
  have h1 : 10 * heightValue r ≤ (9990 : Rat) := ten_mul_heightValue r ▸ mod_cast hle
  constructor <;> linarith

end Sys2Proof.Machine
end

section
/-! Which operation a word of format SP or RP selects (R68, R69). -/

namespace Sys2Proof

/-- An SP word is CLR where bit 9 is set (R68). -/
theorem decodeSP_eq_clr_iff (w : SyncWord) : decodeSP w = .clr ↔ w.getLsbD 9 = true := by
  unfold decodeSP
  cases w.getLsbD 9 <;> cases w.getLsbD 8 <;> simp

/-- An SP word is SNOP where bits 9 and 8 are clear (R68). -/
theorem decodeSP_eq_snop_iff (w : SyncWord) :
    decodeSP w = .snop ↔ w.getLsbD 9 = false ∧ w.getLsbD 8 = false := by
  unfold decodeSP
  cases w.getLsbD 9 <;> cases w.getLsbD 8 <;> simp

/-- An SP word is PUSH of its low byte where bit 8 is set and bit 9 is clear (R68). -/
theorem decodeSP_eq_push_iff (w : SyncWord) (b : Byte) :
    decodeSP w = .push b
      ↔ (w.getLsbD 9 = false ∧ w.getLsbD 8 = true) ∧ w.extractLsb' 0 8 = b := by
  unfold decodeSP
  cases w.getLsbD 9 <;> cases w.getLsbD 8 <;> simp

/-- The mask and match of CLR test bit 9, those of SNOP and PUSH bits 9 and 8 (R68). -/
theorem syncWord_masks (w : SyncWord) :
    (w &&& 0x200#10 = 0x200#10 ↔ w.getLsbD 9 = true)
      ∧ (w &&& 0x300#10 = 0x000#10 ↔ w.getLsbD 9 = false ∧ w.getLsbD 8 = false)
      ∧ (w &&& 0x300#10 = 0x100#10 ↔ w.getLsbD 9 = false ∧ w.getLsbD 8 = true) := by
  revert w; decide

/-- An RP word is RNOP where bit 1 is clear, and RSET of bit 0 where it is set (R69). -/
theorem decodeRP_by_mask (w : RelayWord) :
    (decodeRP w = .rnop ↔ w &&& 0b10#2 = 0b00#2)
      ∧ ∀ v, decodeRP w = .rset v ↔ w = 0b10#2 ||| (BitVec.ofBool v).setWidth 2 := by
  revert w; decide

/-- The bits of the SP word of a cycle are the synchronizer's pins (R68). -/
theorem Pins.sp_bits (p : Pins) :
    p.sp.getLsbD 9 = p.sessClear ∧ p.sp.getLsbD 8 = p.rxValid ∧ p.sp.extractLsb' 0 8 = p.rxData := by
  simp only [Pins.sp, BitVec.getLsbD_append, BitVec.extractLsb'_append_eq_ite]
  simp

/-- The bits of the RP word of a cycle are the relay driver's pins (R69). -/
theorem Pins.rp_bits (p : Pins) : p.rp.getLsbD 1 = p.relayWe ∧ p.rp.getLsbD 0 = p.relayOn := by
  simp only [Pins.rp, BitVec.getLsbD_append]
  simp

/-- The canonical word of PUSH is 0x100 with the byte added (R68). -/
theorem encode_push (b : Byte) : encode (.push b) = .sp (0x100#10 + b.setWidth 10) := by
  revert b; decide

/-- The decoder at the synchronizer's port reads a word by format SP. -/
theorem decode_sp_eq_ok_iff (w : SyncWord) (i : Instr) : decode (.sp w) = .ok i ↔ decodeSP w = i := by
  simp [decode, decodeWith]

/-- The decoder at the relay driver's port reads a word by format RP. -/
theorem decode_rp_eq_ok_iff (w : RelayWord) (i : Instr) : decode (.rp w) = .ok i ↔ decodeRP w = i := by
  simp [decode, decodeWith]

/-- Settles O49: each format's operation by its selecting bits, and the masks as tests of those bits. -/
theorem portWordsByMaskAndMatch : Obligations.PortWordsByMaskAndMatch := by
  refine ⟨fun w => ?_, fun w => ?_, fun p => ⟨p.sp_bits, p.rp_bits⟩, rfl, rfl, encode_push, rfl, rfl,
    rfl⟩
  · obtain ⟨hclr, hsnop, hpush⟩ := syncWord_masks w
    simp only [decode_sp_eq_ok_iff, decodeSP_eq_clr_iff, decodeSP_eq_snop_iff, decodeSP_eq_push_iff,
      hclr, hsnop, hpush, implies_true, and_self]
  · simpa only [decode_rp_eq_ok_iff] using decodeRP_by_mask w

end Sys2Proof
end

section
/-! The decoder: tables given by their entries (R94), the two fields of a segment byte (R91, R92), and
the meaning of DEC (R90, R95). -/

namespace Sys2Proof

/-- A pattern with no entry is unrecognised (R94). -/
theorem SegTab.ofRows_of_no_entry (rows : List (Pattern × Digit)) (s : Pattern)
    (h : ∀ r ∈ rows, r.1 ≠ s) : SegTab.ofRows rows s = .unrecognised := by
  induction rows with
  | nil => rfl
  | cons r rows ih =>
    obtain ⟨hr, hrows⟩ := List.forall_mem_cons.1 h
    rw [SegTab.ofRows, if_neg hr.symm, ih hrows]

/-- Where every entry is a digit or blank, a pattern with an entry is recognised. -/
theorem SegTab.ofRows_ne_unrecognised (rows : List (Pattern × Digit)) (s : Pattern)
    (h : ∀ r ∈ rows, r.2 ≠ .unrecognised) (hs : s ∈ rows.map Prod.fst) :
    SegTab.ofRows rows s ≠ .unrecognised := by
  induction rows with
  | nil => cases hs
  | cons r rows ih =>
    obtain ⟨hr, hrows⟩ := List.forall_mem_cons.1 h
    rw [SegTab.ofRows]
    split
    · exact hr
    · next hne => exact ih hrows ((List.mem_cons.1 hs).resolve_left hne)

/-- Where every entry is a digit or blank, the unrecognised patterns are those without an entry. -/
theorem SegTab.ofRows_eq_unrecognised_iff (rows : List (Pattern × Digit)) (s : Pattern)
    (h : ∀ r ∈ rows, r.2 ≠ .unrecognised) :
    SegTab.ofRows rows s = .unrecognised ↔ s ∉ rows.map Prod.fst := by
  constructor
  · exact fun hu hs => SegTab.ofRows_ne_unrecognised rows s h hs hu
  · intro hs
    exact SegTab.ofRows_of_no_entry rows s fun r hr he => hs (List.mem_map.2 ⟨r, hr, he⟩)

/-- Flipping `b[7]` flips the point and leaves the pattern (R91, R92). -/
theorem xor_topBit_eq_segByte (b : Byte) :
    b ^^^ 0x80#8 = segByte (!pointBit b) (patternBits b) := by
  revert b; decide

end Sys2Proof

namespace Sys2Proof.Machine

/-- Settles O5: the first clause by induction on the entries (`ofRows_of_no_entry`); the eleven patterns
are those of the default entries, in another order; the count is evaluated. -/
theorem patternsOffTheTableAreUnrecognised : Obligations.PatternsOffTheTableAreUnrecognised := by
  refine ⟨SegTab.ofRows_of_no_entry, rfl, fun s => ?_, rfl⟩
  have hperm : (segRows.map Prod.fst).Perm [0x00#7, 0x06#7, 0x07#7, 0x3F#7, 0x4F#7, 0x5B#7, 0x66#7,
      0x6D#7, 0x6F#7, 0x7D#7, 0x7F#7] := by decide
  rw [← hperm.mem_iff]
  exact SegTab.ofRows_eq_unrecognised_iff segRows s (by decide)

/-- DEC of a segment byte put together from its fields (R90, R91). -/
@[simp] theorem decSeg_segByte (t : SegTab) (p : Bool) (s : Pattern) :
    decSeg t (segByte p s) = ⟨t s, p⟩ := by
  simp [decSeg]

/-- In an admissible table the unlit pattern is blank, with either point (R93). -/
theorem decSeg_unlit {t : SegTab} (h : t.Admissible) (p : Bool) :
    decSeg t (segByte p 0x00#7) = ⟨.blank, p⟩ := by
  rw [decSeg_segByte, h.zero_blank]

/-- The value of a digit lies in -1 to 10 (R90). -/
theorem digitValue_bounds (g : Digit) : -1 ≤ digitValue g ∧ digitValue g ≤ 10 := by
  cases g with
  | digit n => simp only [digitValue]; omega
  | blank => decide
  | unrecognised => decide

/-- DEC under every meaning at a table: the outputs are cleared, and the decoder port shows the byte's
pair (R90, R95). -/
theorem MeaningAt.dec {t : SegTab} {run : Meaning} (h : MeaningAt t run) (b : Byte) (s : State) :
    run (.dec b) s = .next (s.quiet.showDec t b) := by
  rcases h with rfl | ⟨rfl, rfl⟩ <;> rfl

/-- Settles O1: `MeaningAt.dec` for `exec` and for `execWith`, and the pair of 0xDB by evaluation. -/
theorem decShowsDigitAndPoint : Obligations.DecShowsDigitAndPoint := by
  have hexec := MeaningAt.dec (t := segTab) (run := exec) (.inr ⟨rfl, rfl⟩)
  refine ⟨hexec, fun t => MeaningAt.dec (.inl rfl), fun b t => digitValue_bounds _, fun s => ?_⟩
  have hpair : decSeg segTab 0xDB#8 = ⟨.digit 2, true⟩ := by decide
  rw [hexec, State.showDec, hpair]
  rfl

/-- Settles O2: `decSeg` takes its fields from the byte alone, and 0x80 is the unlit pattern with its
point. -/
theorem pointIsTakenWhateverTheDigit : Obligations.PointIsTakenWhateverTheDigit :=
  ⟨fun _ _ => rfl, fun _ h => decSeg_unlit h true, by decide⟩

/-- Settles O3: the flipped byte has the same pattern and the opposite point. -/
theorem topBitDoesNotChangeDigit : Obligations.TopBitDoesNotChangeDigit := by
  intro t b
  rw [xor_topBit_eq_segByte, decSeg_segByte]
  exact ⟨rfl, rfl⟩

/-- Settles O4: 0x00 and 0x80 are the unlit pattern with either point. -/
theorem unlitIsBlankInEveryTable : Obligations.UnlitIsBlankInEveryTable :=
  fun _ h => ⟨h.zero_blank, rfl, decSeg_unlit h false, decSeg_unlit h true⟩

/-- Settles O6: `MeaningAt.dec` in both states; the pair shown reads neither, and the block is left. -/
theorem decIsTotalAndPure : Obligations.DecIsTotalAndPure := by
  intro t run h b s s'
  exact ⟨_, _, h.dec b s, h.dec b s', rfl, rfl, rfl, rfl⟩

end Sys2Proof.Machine
end

section
/-! What an operation and a step can do at any table, said once, and the invariants of R24. -/

namespace Sys2Proof.Machine

/-- The meaning at the table in force is the meaning at any table, taken there (R7). -/
theorem exec_eq_execWith : exec = execWith segTab := by
  funext i s
  cases i <;> rfl

/-- Every meaning at a table is `execWith` at that table. -/
theorem MeaningAt.eq_execWith {t : SegTab} {run : Meaning} (h : MeaningAt t run) :
    run = execWith t := by
  rcases h with rfl | ⟨rfl, rfl⟩
  · rfl
  · exact exec_eq_execWith

/-- Every step at a table is `stepWith` at that table. -/
theorem StepAt.eq_stepWith {t : SegTab} {st : State → Host.Outcome State Fault Refusal}
    (h : StepAt t st) : st = stepWith t := by
  rcases h with rfl | ⟨rfl, rfl⟩
  · rfl
  · funext s
    rw [step, stepWith, exec_eq_execWith]

/-- What an operation can do: one of the decoder shows a byte, SNOP and RNOP clear the outputs alone, and
each other operation is its one named update of the state. -/
theorem execWith_cases {t : SegTab} {i : Instr} {s u : State} (h : execWith t i s = .next u) :
    (isDecoderOp i = true ∧ ∃ b, u = s.quiet.showDec t b)
    ∨ ((i = .snop ∨ i = .rnop) ∧ u = s.quiet)
    ∨ (i = .clr ∧ u = s.quiet.clearWindow)
    ∨ (∃ b, i = .push b ∧ u = s.quiet.pushByte t b)
    ∨ (∃ d1 d2 d3, i = .hfHeight d1 d2 d3
        ∧ u = s.quiet.pushBytes t [sentinel, hfLen, hfType, d1, d2, d3])
    ∨ (∃ on, i = .rset on ∧ u = s.quiet.setRelays on)
    ∨ (i = .reset ∧ u = s.quiet.resetBlock) := by
  cases i <;> cases h
  case snop => exact .inr (.inl ⟨.inl rfl, rfl⟩)
  case rnop => exact .inr (.inl ⟨.inr rfl, rfl⟩)
  case clr => exact .inr (.inr (.inl ⟨rfl, rfl⟩))
  case push b => exact .inr (.inr (.inr (.inl ⟨b, rfl, rfl⟩)))
  case hfHeight d1 d2 d3 => exact .inr (.inr (.inr (.inr (.inl ⟨d1, d2, d3, rfl, rfl⟩))))
  case rset on => exact .inr (.inr (.inr (.inr (.inr (.inl ⟨on, rfl, rfl⟩)))))
  case reset => exact .inr (.inr (.inr (.inr (.inr (.inr ⟨rfl, rfl⟩)))))
  all_goals exact .inl ⟨rfl, _, rfl⟩

/-- The empty window meets R24 (a). -/
theorem Window.empty_prefixFill : Window.empty.PrefixFill := by decide

/-- Writing both relays keeps the invariants of R24 (R141). -/
theorem State.setRelays_inv (on : Bool) (s : State) (h : s.Inv) : (s.setRelays on).Inv :=
  ⟨h.1, rfl⟩

/-- Emptying the window keeps the invariants of R24 (R111). -/
theorem State.clearWindow_inv (s : State) (h : s.Inv) : s.clearWindow.Inv :=
  ⟨Window.empty_prefixFill, h.2⟩

/-- RESET gives the invariants of R24 to every state (R210). -/
theorem State.resetBlock_inv (s : State) : s.resetBlock.Inv := ⟨Window.empty_prefixFill, rfl⟩

/-- Every operation keeps the invariants of R24. -/
theorem execWith_inv {t : SegTab} {i : Instr} {s u : State} (h : execWith t i s = .next u)
    (hs : s.Inv) : u.Inv := by
  have hq : s.quiet.Inv := hs
  obtain ⟨-, b, rfl⟩ | ⟨-, rfl⟩ | ⟨-, rfl⟩ | ⟨b, -, rfl⟩ | ⟨d1, d2, d3, -, rfl⟩ | ⟨on, -, rfl⟩
    | ⟨-, rfl⟩ := execWith_cases h
  · exact hq
  · exact hq
  · exact s.quiet.clearWindow_inv hq
  · exact State.pushBytes_inv t [b] _ hq
  · exact State.pushBytes_inv t _ _ hq
  · exact State.setRelays_inv on _ hq
  · exact State.resetBlock_inv _

/-- The synchronizer's part of a cycle keeps the invariants of R24. -/
theorem cycleSync_inv (t : SegTab) (p : Pins) (s : State) (h : s.Inv) : (cycleSync t p s).Inv := by
  unfold cycleSync
  split_ifs
  · exact s.clearWindow_inv h
  · exact State.pushBytes_inv t [p.rxData] s h
  · exact h

/-- The relay driver's part of a cycle keeps the invariants of R24. -/
theorem cycleRelay_inv (p : Pins) (s : State) (h : s.Inv) : (cycleRelay p s).Inv := by
  unfold cycleRelay
  split_ifs
  · exact State.setRelays_inv _ s h
  · exact h

/-- A clock cycle keeps the invariants of R24, whatever its pins are. -/
theorem cycle_inv (t : SegTab) (p : Pins) (s : State) (h : s.Inv) : (cycle t p s).Inv := by
  unfold cycle
  split_ifs
  · exact State.resetBlock_inv _
  · exact cycleRelay_inv p _ (cycleSync_inv t p _ h)

/-- Settles O41, by what a step can do: an idle step and a low `rst` pin leave the window and the relays,
an operation, six bytes pushed and a cycle keep the invariants by their own lemmas. -/
theorem stepKeepsTheInvariants : Obligations.StepKeepsTheInvariants := by
  intro t st hst s u hs h
  rw [hst.eq_stepWith] at h
  rcases advance_cases h with ⟨rfl, -⟩ | ⟨w, rest, -, hop⟩ | ⟨p, rest, -, rfl⟩
  · exact hs
  · rcases hop with ⟨i, -, hi⟩ | ⟨-, rfl⟩ | ⟨f, -, rfl⟩
    · exact execWith_inv hi hs
    · exact hs
    · exact State.pushBytes_inv t _ _ hs
  · exact cycle_inv t p _ hs

end Sys2Proof.Machine
end

section
/-! One PUSH (R113 to R121): the classification of a recognised frame, the height number, and the event of
a PUSH by the window. -/

namespace Sys2Proof.Machine

/-! ### The rows of the classification table (R116) -/

/-- A digit that is neither unrecognised nor blank is one of 0 to 9 (R90). -/
theorem exists_digit_of_recognised {g : Digit} (hu : g ≠ .unrecognised) (hb : g ≠ .blank) :
    ∃ n, g = .digit n := by
  cases g with
  | digit n => exact ⟨n, rfl⟩
  | blank => exact absurd rfl hb
  | unrecognised => exact absurd rfl hu

/-- The digit of DEC is the table's for `b[6:0]` (R90). -/
theorem decSeg_digit (t : SegTab) (b : Byte) : (decSeg t b).digit = t (b.extractLsb' 0 7) := rfl

/-- D1 = 0x00 gives BLANK, whatever the other bytes are (R116). -/
theorem classify_zero (t : SegTab) (d2 d3 : Byte) : classify t 0x00#8 d2 d3 = .blank := if_pos rfl

/-- Past the test of D1, an unrecognised digit byte gives INVALID (R116). -/
theorem classify_of_unrecognised {t : SegTab} {d1 d2 d3 : Byte} (h0 : d1 ≠ 0x00#8)
    (hu : ∃ d ∈ [d1, d2, d3], (decSeg t d).digit = .unrecognised) :
    classify t d1 d2 d3 = .invalid := by
  rw [classify, if_neg h0]
  split
  · rfl
  · rfl
  · rfl
  · simp_all
  · simp_all

/-- Past the test of D1 and with every digit byte recognised, a blank one gives BLANK (R116). -/
theorem classify_of_blank {t : SegTab} {d1 d2 d3 : Byte}
    (hu : ∀ d ∈ [d1, d2, d3], (decSeg t d).digit ≠ .unrecognised)
    (hb : ∃ d ∈ [d1, d2, d3], (decSeg t d).digit = .blank) :
    classify t d1 d2 d3 = .blank := by
  rw [classify]
  split
  · rfl
  · split <;> simp_all

/-- Past the test of D1, three digits give HEIGHT with their report (R116). -/
theorem classify_of_digits {t : SegTab} {d1 d2 d3 : Byte} {g1 g2 g3 : Fin 10} (h0 : d1 ≠ 0x00#8)
    (h1 : (decSeg t d1).digit = .digit g1) (h2 : (decSeg t d2).digit = .digit g2)
    (h3 : (decSeg t d3).digit = .digit g3) :
    classify t d1 d2 d3
      = .height (heightReport g1 g2 g3 (pointBit d1) (pointBit d2) (pointBit d3)) := by
  rw [classify, if_neg h0, h1, h2, h3]

/-- Where no digit byte is unrecognised or blank, the three are digits. -/
theorem exists_digits {t : SegTab} {d1 d2 d3 : Byte}
    (hu : ∀ d ∈ [d1, d2, d3], (decSeg t d).digit ≠ .unrecognised)
    (hb : ∀ d ∈ [d1, d2, d3], (decSeg t d).digit ≠ .blank) :
    ∃ g1 g2 g3, (decSeg t d1).digit = .digit g1 ∧ (decSeg t d2).digit = .digit g2
      ∧ (decSeg t d3).digit = .digit g3 := by
  have hdigit : ∀ d ∈ [d1, d2, d3], ∃ n, (decSeg t d).digit = .digit n := fun d hd =>
    exists_digit_of_recognised (hu d hd) (hb d hd)
  obtain ⟨g1, h1⟩ := hdigit d1 (by simp)
  obtain ⟨g2, h2⟩ := hdigit d2 (by simp)
  obtain ⟨g3, h3⟩ := hdigit d3 (by simp)
  exact ⟨g1, g2, g3, h1, h2, h3⟩

/-- In an admissible table a byte that decodes to a digit is not 0x00 (R7 (a)). -/
theorem ne_zero_of_digit {t : SegTab} (h : t.Admissible) {d : Byte} {g : Fin 10}
    (hd : (decSeg t d).digit = .digit g) : d ≠ 0x00#8 := by
  rintro rfl
  have hblank : (decSeg t 0x00#8).digit = .blank := h.zero_blank
  exact absurd (hblank.symm.trans hd) (by simp)

/-- A HEIGHT event of a recognised frame reports its three digits, and D1 is not 0x00 (R116, R117). -/
theorem classify_eq_height {t : SegTab} {d1 d2 d3 : Byte} {r : HeightReport}
    (h : classify t d1 d2 d3 = .height r) :
    d1 ≠ 0x00#8 ∧ (decSeg t d1).digit = .digit r.g1 ∧ (decSeg t d2).digit = .digit r.g2
      ∧ (decSeg t d3).digit = .digit r.g3
      ∧ r = heightReport r.g1 r.g2 r.g3 (pointBit d1) (pointBit d2) (pointBit d3) := by
  obtain hb | hi | ⟨g1, g2, g3, h1, h2, h3, h0, hh⟩ := classify_cases t d1 d2 d3
  · cases hb.symm.trans h
  · cases hi.symm.trans h
  · cases hh.symm.trans h
    exact ⟨h0, h1, h2, h3, rfl⟩

/-- The number of three digits is at most 999 (R117). -/
theorem heightNumber_le (g1 g2 g3 : Fin 10) : heightNumber g1 g2 g3 ≤ 999 := by
  rw [heightNumber]
  omega

/-! ### The event of a PUSH, and its next state -/

/-- A PUSH gives NONE exactly where the window does not fire (R114). -/
theorem pushEvent_ne_none_iff (t : SegTab) (w : Window) (b : Byte) :
    pushEvent t w b ≠ .none ↔ fires w = true := by
  cases h : fires w with
  | true => simp [pushEvent_of_fires t w b h, classify_ne_none]
  | false => simp [pushEvent_of_not_fires t w b h]

/-- A HEIGHT event of a PUSH is that of the digit bytes in the window and the byte pushed. -/
theorem classify_of_pushEvent_height {t : SegTab} {w : Window} {b : Byte} {r : HeightReport}
    (h : pushEvent t w b = .height r) :
    classify t (hundredsByte w) (tensByte w) b = .height r := by
  have hf : fires w = true := (pushEvent_ne_none_iff t w b).1 (by simp [h])
  rwa [pushEvent_of_fires t w b hf] at h

/-- With the header and two digit bytes in the window, a PUSH classifies these and its own byte (R115). -/
theorem pushEvent_of_header (t : SegTab) (d1 d2 d3 : Byte) :
    pushEvent t ⟨some d2, some d1, some hfType, some hfLen, some sentinel⟩ d3
      = classify t d1 d2 d3 :=
  pushEvent_of_fires t _ d3 ((fires_iff _).2 ⟨rfl, rfl, rfl⟩)

/-- PUSH under every meaning at a table, field by field: the shift, the one event, nothing else (R121). -/
theorem MeaningAt.push_eq {t : SegTab} {run : Meaning} (h : MeaningAt t run) (b : Byte) (s : State) :
    run (.push b) s = .next { s with
      win := ⟨some b, s.win.w0, s.win.w1, s.win.w2, s.win.w3⟩
      events := [pushEvent t s.win b], seg := none } :=
  h.push b s

/-- PUSH with the header and two digit bytes in the window (R115, R121). -/
theorem MeaningAt.push_of_header {t : SegTab} {run : Meaning} (h : MeaningAt t run)
    (d1 d2 d3 : Byte) {s : State}
    (hw : s.win = ⟨some d2, some d1, some hfType, some hfLen, some sentinel⟩) :
    run (.push d3) s = .next { s with
      win := ⟨some d3, some d2, some d1, some hfType, some hfLen⟩
      events := [classify t d1 d2 d3], seg := none } := by
  rw [h.push_eq, hw, pushEvent_of_header]

/-- Settles O14: `push_eq` for `exec` and for `execWith`. -/
theorem pushAlwaysShifts : Obligations.PushAlwaysShifts :=
  ⟨fun b s => ⟨_, MeaningAt.push_eq (.inr ⟨rfl, rfl⟩) b s⟩,
    fun t b s => ⟨_, MeaningAt.push_eq (t := t) (.inl rfl) b s⟩⟩

/-- Settles O15: the one event is `pushEvent`, which is not NONE exactly where the window fires. -/
theorem firesExactlyOnTheHeader : Obligations.FiresExactlyOnTheHeader := by
  intro t run h b s
  refine ⟨_, _, h.push_eq b s, rfl, (pushEvent_ne_none_iff t s.win b).trans (fires_iff s.win), ?_⟩
  exact fun hw => pushEvent_of_not_fires t _ b (not_fires_of_empty _ hw)

/-- Settles O16: the next state by `push_of_header`, the four rows by the lemmas of `classify`. -/
theorem recognisedFrameIsClassified : Obligations.RecognisedFrameIsClassified := by
  refine ⟨fun t run h d1 d2 d3 s hw => h.push_of_header d1 d2 d3 hw, fun t d1 d2 d3 => ⟨?_, ?_, ?_, ?_⟩⟩
  · rintro rfl
    exact classify_zero t d2 d3
  · exact classify_of_unrecognised
  · exact fun _ => classify_of_blank
  · intro h0 hu hb
    obtain ⟨g1, g2, g3, h1, h2, h3⟩ := exists_digits hu hb
    exact ⟨_, classify_of_digits h0 h1 h2 h3⟩

/-- Settles O17: the first clause by `classify_of_digits`, the second by `classify_eq_height`. -/
theorem heightNumberAndDecimalFlag : Obligations.HeightNumberAndDecimalFlag := by
  refine ⟨fun t run ht h g1 g2 g3 d1 d2 d3 s hw h1 h2 h3 => ?_, fun t run h b s u r hu he => ?_, rfl⟩
  · have hclass := classify_of_digits (ne_zero_of_digit ht h1) h1 h2 h3
    refine ⟨_, ?_, rfl, heightNumber_le g1 g2 g3, rfl⟩
    exact hclass ▸ h.push_of_header d1 d2 d3 hw
  · cases (h.push_eq b s).symm.trans hu
    obtain ⟨-, -, -, -, hr⟩ := classify_eq_height (classify_of_pushEvent_height (List.singleton_inj.1 he))
    rw [hr]
    exact ⟨rfl, heightNumber_le _ _ _, rfl⟩

/-- Settles O13: where the window fires, the rows of the classification in the order of the pseudocode. -/
theorem pushFollowsItsPseudocode : Obligations.PushFollowsItsPseudocode := by
  refine ⟨fun t run h b s _ => ?_, fun s hw => ?_⟩
  · rw [h.push_eq]
    congr 3
    split
    · next hf =>
      rw [pushEvent_of_fires t _ b ((fires_iff _).2 hf)]
      simp only [hundredsByte, tensByte, slotByte]
      generalize s.win.w1.getD 0x00#8 = d1, s.win.w0.getD 0x00#8 = d2
      split_ifs with h0 hu hb
      · exact h0 ▸ classify_zero t d2 b
      · exact classify_of_unrecognised h0 (by simpa [decSeg_digit] using hu)
      · exact classify_of_blank (by simpa [decSeg_digit] using hu) (by simpa [decSeg_digit] using hb)
      · obtain ⟨g1, g2, g3, h1, h2, h3⟩ :=
          exists_digits (t := t) (d1 := d1) (d2 := d2) (d3 := b)
            (by simpa [decSeg_digit] using hu) (by simpa [decSeg_digit] using hb)
        rw [classify_of_digits h0 h1 h2 h3]
        rw [decSeg_digit] at h1 h2 h3
        rw [h1, h2, h3]
        rfl
    · next hf => exact pushEvent_of_not_fires t _ b (Bool.eq_false_iff.2 fun h => hf ((fires_iff _).1 h))
  · exact MeaningAt.push_of_header (.inr ⟨rfl, rfl⟩) 0x06#8 0x5B#8 0x6D#8 hw

end Sys2Proof.Machine
end

section
/-! The cycle at the pins: a HEIGHT event on the outputs (R119), and CLR over a byte (R122). -/

namespace Sys2Proof.Machine

/-- A cycle that accepts a byte has the event of its PUSH (R30). -/
theorem cycleEvent_of_accepts (t : SegTab) (p : Pins) (s : State) (h : accepts p = true) :
    cycleEvent t p s = pushEvent t s.win p.rxData := if_pos h

/-- The event pins of a cycle whose event is HEIGHT carry kind 1 and the report (R119). -/
theorem outputs_of_height {t : SegTab} {p : Pins} {s : State} {r : HeightReport}
    (h : cycleEvent t p s = .height r) :
    (outputs t p s).evtKind = 1#2 ∧ (outputs t p s).evtN = BitVec.ofNat 10 r.n
      ∧ (outputs t p s).evtDp = r.dp ∧ (outputs t p s).evtG1 = digitCode (.digit r.g1)
      ∧ (outputs t p s).evtG2 = digitCode (.digit r.g2)
      ∧ (outputs t p s).evtG3 = digitCode (.digit r.g3) ∧ (outputs t p s).evtP1 = r.p1
      ∧ (outputs t p s).evtP2 = r.p2 ∧ (outputs t p s).evtP3 = r.p3 := by
  simp [outputs, h, eventKind, eventReport]

/-- Settles O18: the cycle's event is the HEIGHT of the three digits, and `outputs_of_height` reads it off
the pins, the number fitting in ten bits. -/
theorem heightIsOnThePinsInTheCycleOfD3 : Obligations.HeightIsOnThePinsInTheCycleOfD3 := by
  refine ⟨fun t g1 g2 g3 d1 d2 p s ht hw hv hc hr h1 h2 h3 => ?_, ?_, ?_⟩
  · have hacc : accepts p = true := by simp [accepts, hv, hc, hr]
    have hevent : cycleEvent t p s = .height
        (heightReport g1 g2 g3 (pointBit d1) (pointBit d2) (pointBit p.rxData)) :=
      calc cycleEvent t p s = pushEvent t s.win p.rxData := cycleEvent_of_accepts t p s hacc
        _ = classify t d1 d2 p.rxData := hw ▸ pushEvent_of_header t d1 d2 p.rxData
        _ = _ := classify_of_digits (ne_zero_of_digit ht h1) h1 h2 h3
    have hn : heightNumber g1 g2 g3 < 2 ^ 10 := Nat.lt_of_le_of_lt (heightNumber_le g1 g2 g3) (by decide)
    obtain ⟨hkind, hN, hdp, hg1, hg2, hg3, hp1, hp2, hp3⟩ := outputs_of_height hevent
    refine ⟨hacc, hkind, ?_, ?_, ?_, hp1, hp2, hp3, ?_, hdp⟩
    · rw [hg1, toNat_digitCode_digit]; rfl
    · rw [hg2, toNat_digitCode_digit]; rfl
    · rw [hg3, toNat_digitCode_digit]; rfl
    · rw [hN, BitVec.toNat_ofNat]; exact Nat.mod_eq_of_lt hn
  · simp [heightValue, heightReport, heightNumber, combinedPoint]
  · simp [heightValue, heightReport, heightNumber, combinedPoint]

/-- A cycle with CLR and without RESET empties the window (R111, R122). -/
theorem cycle_win_of_sessClear (t : SegTab) (p : Pins) (s : State) (hr : p.rst = false)
    (hc : p.sessClear = true) : (cycle t p s).win = Window.empty := by
  simp only [cycle, cycleSync, cycleRelay, hr, hc]
  split_ifs <;> simp_all

/-- Settles O45: with `sess_clear` the cycle accepts no byte, so it outputs no event. -/
theorem clrBeatsAByteInTheSameCycle : Obligations.ClrBeatsAByteInTheSameCycle := by
  refine ⟨fun t p s hr hc _ => ?_, fun w hw => ?_⟩
  · have hacc : accepts p = false := by simp [accepts, hc]
    refine ⟨cycle_win_of_sessClear t p s hr hc, ?_, hacc⟩
    rw [cycle_events, hacc]
    rfl
  · exact (decode_sp_eq_ok_iff w .clr).2 ((decodeSP_eq_clr_iff w).2 hw)

end Sys2Proof.Machine
end

section
/-! What earlier steps left on the outputs is read by nothing (R127). -/

namespace Sys2Proof.Machine

/-- Every operation starts from the cleared outputs, so it does not read them (R127). -/
theorem execWith_of_outputs (t : SegTab) (i : Instr) (s : State) (e : List Event) (g : Option Decoded) :
    execWith t i { s with events := e, seg := g } = execWith t i s := by
  cases i <;> rfl

/-- No step reads the outputs of earlier steps (R127). -/
theorem advance_of_outputs (t : SegTab) (s : State) (e : List Event) (g : Option Decoded) :
    advance t (execWith t) { s with events := e, seg := g } = advance t (execWith t) s := by
  obtain ⟨win, r1, r2, pending, events, seg⟩ := s
  match pending with
  | [] => rfl
  | .cycle p :: rest => rfl
  | .op w :: rest =>
    simp only [advance, runWord]
    cases decodeWith t w with
    | ok i => exact execWith_of_outputs t i ⟨win, r1, r2, rest, events, seg⟩ e g
    | error x => cases x <;> rfl

/-- Settles O29: every operation and every step starts from the cleared outputs. -/
theorem earlierOutputsAreNeverRead : Obligations.EarlierOutputsAreNeverRead := by
  intro t run st h hst
  rw [h.eq_execWith, hst.eq_stepWith]
  exact ⟨execWith_of_outputs t, advance_of_outputs t⟩

end Sys2Proof.Machine
end

section
/-! Runs of PUSHes by the bytes pushed: the events, and the window they leave (R21, R113, R121). -/

namespace Sys2Proof.Machine

/-- The events of pushing bytes on a window, in order (R113). -/
def pushEvents (t : SegTab) : Window → List Byte → List Event
  | _, [] => []
  | w, b :: bs => pushEvent t w b :: pushEvents t (w.shift b) bs

/-- A run of PUSHes outputs `pushEvents`, and leaves the window shifted by every byte. -/
theorem runOps_pushes {t : SegTab} {run : Meaning} (h : MeaningAt t run) (bs : List Byte) (s : State) :
    ∃ u, runOps run (pushes bs) s = some (u, pushEvents t s.win bs)
      ∧ u.win = bs.foldl Window.shift s.win := by
  induction bs generalizing s with
  | nil => exact ⟨s, rfl, rfl⟩
  | cons b bs ih =>
    obtain ⟨u, hrun, hwin⟩ := ih (s.quiet.pushByte t b)
    exact ⟨u, by rw [runOps_pushes_cons h, hrun]; rfl, hwin⟩

/-- The event of the byte `bs[i]` is that of its PUSH on the window the bytes before it leave. -/
theorem getElem?_pushEvents (t : SegTab) (bs : List Byte) (w : Window) (i : Nat) :
    (pushEvents t w bs)[i]?
      = bs[i]?.map (pushEvent t ((bs.take i).foldl Window.shift w)) := by
  induction bs generalizing w i with
  | nil => rfl
  | cons b bs ih =>
    cases i with
    | zero => rfl
    | succ i => exact ih (w.shift b) i

/-- Two windows with the same slots are the same. -/
theorem Window.ext_slot {w w' : Window} (h : ∀ k, w.slot k = w'.slot k) : w = w' :=
  calc w = ⟨w.slot 0, w.slot 1, w.slot 2, w.slot 3, w.slot 4⟩ := rfl
    _ = ⟨w'.slot 0, w'.slot 1, w'.slot 2, w'.slot 3, w'.slot 4⟩ := by simp only [h]

/-- `W[k]` after a stream on the empty window is the byte `k + 1` places from its end, or EMPTY (R21). -/
theorem slot_foldl_shift_empty (bs : List Byte) (k : Fin 5) :
    (bs.foldl Window.shift Window.empty).slot k
      = if k.val < bs.length then bs[bs.length - 1 - k.val]? else none := by
  have hrev : (bs.foldl Window.shift Window.empty).slot k = bs.reverse[k.val]? := by
    induction bs using List.reverseRecOn generalizing k with
    | nil => revert k; decide
    | append_singleton bs b ih =>
      rw [List.foldl_concat, List.reverse_concat]
      match k with
      | 0 => rfl
      | 1 => exact ih 0
      | 2 => exact ih 1
      | 3 => exact ih 2
      | 4 => exact ih 3
  rw [hrev]
  split_ifs with hk
  · exact List.getElem?_reverse hk
  · exact List.getElem?_eq_none (by simpa using hk)

/-- `W[k]` before the PUSH of `bs[i]` in a session is `bs[i - 1 - k]`, or EMPTY (R21). -/
theorem slot_before_push {bs : List Byte} {i : Nat} (hi : i ≤ bs.length) (k : Fin 5) :
    ((bs.take i).foldl Window.shift Window.empty).slot k
      = if k.val < i then bs[i - 1 - k.val]? else none := by
  rw [slot_foldl_shift_empty, List.length_take_of_le hi]
  split_ifs with hk
  · exact List.getElem?_take_of_lt (by omega)
  · rfl

/-- The header stands before the digit bytes of `bs[i]`, in words (R123). -/
theorem headerBefore_iff (bs : List Byte) (i : Nat) :
    headerBefore bs i = true ↔ 5 ≤ i ∧ bs[i - 5]? = some sentinel ∧ bs[i - 4]? = some hfLen
      ∧ bs[i - 3]? = some hfType := by
  simp [headerBefore, and_assoc]

/-- From the sixth byte of a session on, every slot before its PUSH holds a byte of the stream (R21). -/
theorem window_before_push {bs : List Byte} {i : Nat} (h5 : 5 ≤ i) (hi : i ≤ bs.length) :
    (bs.take i).foldl Window.shift Window.empty
      = ⟨bs[i - 1]?, bs[i - 2]?, bs[i - 3]?, bs[i - 4]?, bs[i - 5]?⟩ := by
  have hslot (k : Fin 5) := (slot_before_push hi k).trans (if_pos (by omega))
  exact Window.ext_slot fun k => (hslot k).trans (by fin_cases k <;> rfl)

/-- In a session the window before the PUSH of `bs[i]` fires exactly where the header stands before it. -/
theorem fires_before_push {bs : List Byte} {i : Nat} (hi : i ≤ bs.length) :
    fires ((bs.take i).foldl Window.shift Window.empty) = headerBefore bs i := by
  rcases Nat.lt_or_ge i 5 with h5 | h5
  · have hw4 : ((bs.take i).foldl Window.shift Window.empty).w4 = none :=
      (slot_before_push hi 4).trans (if_neg (Nat.not_lt.2 (Nat.le_of_lt_succ h5)))
    simp [not_fires_of_empty _ hw4, headerBefore, h5.not_ge]
  · simp [window_before_push h5 hi, fires, headerBefore, h5]

/-- In a session the PUSH of `bs[i]` outputs what the stream alone says (R123). -/
theorem pushEvent_eq_streamEvent (t : SegTab) {bs : List Byte} {i : Nat} (hi : i < bs.length) :
    pushEvent t ((bs.take i).foldl Window.shift Window.empty) bs[i] = streamEvent t bs i := by
  rw [pushEvent, streamEvent, fires_before_push hi.le]
  split_ifs with hh
  · obtain ⟨h5, -⟩ := (headerBefore_iff bs i).1 hh
    simp [window_before_push h5 hi.le, hundredsByte, tensByte, slotByte, hi]
  · rfl

/-- On the empty window the events of a stream are a function of the stream alone (R123). -/
theorem pushEvents_empty (t : SegTab) (bs : List Byte) :
    pushEvents t Window.empty bs = streamEvents t bs := by
  refine List.ext_getElem? fun i => ?_
  rw [getElem?_pushEvents, streamEvents, List.getElem?_map]
  rcases Nat.lt_or_ge i bs.length with hi | hi
  · simp [hi, pushEvent_eq_streamEvent t hi]
  · simp [hi]

/-- A session, begun by CLR or RESET in any state: the events are those of the stream alone, and the window
is what its bytes leave of the empty one (R111, R123, R210). -/
theorem runOps_session {t : SegTab} {run : Meaning} (h : MeaningAt t run) {start : Instr}
    (hstart : start ∈ [Instr.clr, Instr.reset]) (bs : List Byte) (s : State) :
    ∃ u, runOps run (start :: pushes bs) s = some (u, streamEvents t bs)
      ∧ u.win = bs.foldl Window.shift Window.empty := by
  obtain ⟨s0, hs0, hwin, hevents⟩ : ∃ s0, run start s = .next s0 ∧ s0.win = Window.empty
      ∧ s0.events = [] := by
    rw [h.eq_execWith]
    obtain rfl | rfl := List.mem_pair.1 hstart
    · exact ⟨_, rfl, rfl, rfl⟩
    · exact ⟨_, rfl, rfl, rfl⟩
  obtain ⟨u, hrun, hu⟩ := runOps_pushes h bs s0
  rw [hwin] at hrun hu
  refine ⟨u, ?_, hu⟩
  rw [runOps_cons_next run _ _ _ _ hs0, hrun, hevents, pushEvents_empty]
  rfl

/-- A session begun by CLR, by its events alone (R123). -/
theorem runOps_clr_pushes {t : SegTab} {run : Meaning} (h : MeaningAt t run) (bs : List Byte)
    (s : State) : ∃ u, runOps run (.clr :: pushes bs) s = some (u, streamEvents t bs) := by
  obtain ⟨u, hu, -⟩ := runOps_session h (start := .clr) (by simp) bs s
  exact ⟨u, hu⟩

/-- Settles O20: `runOps_session` for either start. -/
theorem eventsAreAFunctionOfTheStream : Obligations.EventsAreAFunctionOfTheStream := by
  intro t run h s bs
  obtain ⟨u, hu, -⟩ := runOps_session h (start := .reset) (by simp) bs s
  exact ⟨runOps_clr_pushes h bs s, u, hu⟩

/-- Settles O21: the window of `runOps_session`, slot by slot. -/
theorem windowHoldsTheLastFiveBytes : Obligations.WindowHoldsTheLastFiveBytes := by
  intro t run h s bs k start hstart
  obtain ⟨u, hu, hwin⟩ := runOps_session h hstart bs s
  exact ⟨u, _, hu, hwin ▸ slot_foldl_shift_empty bs k⟩

end Sys2Proof.Machine
end

section
/-! Sessions: when nothing is reported (R111, R130), and what a report says of the stream (R125, R126). -/

namespace Sys2Proof.Machine

/-- The PUSH of `bs[i]` in a session, if there is one, outputs `streamEvent`. -/
theorem getElem?_streamEvents (t : SegTab) (bs : List Byte) (i : Nat) (e : Event) :
    (streamEvents t bs)[i]? = some e ↔ i < bs.length ∧ streamEvent t bs i = e := by
  rw [streamEvents, List.getElem?_map]
  rcases Nat.lt_or_ge i bs.length with hi | hi
  · simp [hi]
  · simp [hi.not_gt]

/-- A PUSH of a session reports exactly where the header stands before it (R114). -/
theorem streamEvent_ne_none_iff (t : SegTab) (bs : List Byte) (i : Nat) :
    streamEvent t bs i ≠ .none ↔ headerBefore bs i = true := by
  rw [streamEvent]
  split
  · next hh => simp [hh, classify_ne_none]
  · next hh => simp [hh]

/-- Where the header stands before no byte, a session reports nothing. -/
theorem streamEvents_eq_replicate (t : SegTab) (bs : List Byte)
    (hn : ∀ i < bs.length, headerBefore bs i ≠ true) :
    streamEvents t bs = List.replicate bs.length .none := by
  refine List.eq_replicate_iff.2 ⟨by simp [streamEvents], fun e he => ?_⟩
  obtain ⟨i, hi⟩ := List.mem_iff_getElem?.1 he
  obtain ⟨hlt, rfl⟩ := (getElem?_streamEvents t bs i e).1 hi
  exact not_not.1 (mt (streamEvent_ne_none_iff t bs i).1 (hn i hlt))

/-- Settles O26: a header before some byte would have the sentinel in the stream. -/
theorem noSentinelNoReport : Obligations.NoSentinelNoReport := by
  intro t run h s bs hbs
  obtain ⟨u, hu⟩ := runOps_clr_pushes h bs s
  refine ⟨u, hu.trans ?_⟩
  rw [streamEvents_eq_replicate t bs fun i _ hh => ?_]
  obtain ⟨-, hsentinel, -⟩ := (headerBefore_iff bs i).1 hh
  exact hbs (List.mem_of_getElem? hsentinel)

/-- Settles O11: the session after CLR is `runOps_session`, and none of its first five bytes has a header
before it. -/
theorem clrStartsASession : Obligations.ClrStartsASession := by
  refine ⟨fun s => rfl, fun s hs => ⟨_, rfl, ?_⟩, fun t run h s s' bs => ?_, fun t run h s bs hbs => ?_,
    fun s hs => ⟨?_, ?_⟩⟩
  · simp [State.block, hs]
  · obtain ⟨u, hu⟩ := runOps_clr_pushes h bs s
    obtain ⟨u', hu'⟩ := runOps_clr_pushes h bs s'
    exact ⟨u, u', _, hu, hu'⟩
  · obtain ⟨u, hu⟩ := runOps_clr_pushes h bs s
    refine ⟨u, hu.trans ?_⟩
    rw [streamEvents_eq_replicate t bs fun i hi hh => ?_]
    obtain ⟨h5, -⟩ := (headerBefore_iff bs i).1 hh
    omega
  · exact runOps_clr_pushes (t := segTab) (.inr ⟨rfl, rfl⟩) [0x6D#8] s
  · obtain ⟨u, hu, -⟩ := runOps_pushes (t := segTab) (run := exec) (.inr ⟨rfl, rfl⟩) [0x6D#8] s
    rw [hs] at hu
    exact ⟨u, hu⟩

/-- Where the header stands before a byte of a session, its event is the classification of it and the two
bytes before it (R115, R123). -/
theorem streamEvent_of_header (t : SegTab) {bs : List Byte} {i : Nat} (hi : i < bs.length)
    (hh : headerBefore bs i = true) :
    ∃ d1 d2 d3, bs[i - 2]? = some d1 ∧ bs[i - 1]? = some d2 ∧ bs[i]? = some d3
      ∧ streamEvent t bs i = classify t d1 d2 d3 := by
  refine ⟨bs[i - 2], bs[i - 1], bs[i], List.getElem?_eq_getElem _, List.getElem?_eq_getElem _,
    List.getElem?_eq_getElem _, ?_⟩
  rw [streamEvent, if_pos hh, List.getD_eq_getElem, List.getD_eq_getElem, List.getD_eq_getElem]

/-- Two places with the header before them are at least three apart, since its bytes differ (R125). -/
theorem headerBefore_spacing {bs : List Byte} {i j : Nat} (hi : headerBefore bs i = true)
    (hj : headerBefore bs j = true) (hlt : i < j) : i + 3 ≤ j := by
  obtain ⟨h5, -, hlen, htype⟩ := (headerBefore_iff bs i).1 hi
  obtain ⟨-, hsentinel, -⟩ := (headerBefore_iff bs j).1 hj
  by_contra hfar
  obtain rfl | rfl : j = i + 1 ∨ j = i + 2 := by omega
  · rw [show i + 1 - 5 = i - 4 by omega, hlen] at hsentinel
    exact absurd hsentinel (by decide)
  · rw [show i + 2 - 5 = i - 3 by omega, htype] at hsentinel
    exact absurd hsentinel (by decide)

/-- Three places on, the header is what stood at the places of the digit bytes (R125). -/
theorem headerBefore_add_three {bs : List Byte} {i : Nat} (h5 : 5 ≤ i) :
    headerBefore bs (i + 3) = true
      ↔ bs[i - 2]? = some sentinel ∧ bs[i - 1]? = some hfLen ∧ bs[i]? = some hfType := by
  rw [headerBefore_iff, show i + 3 - 5 = i - 2 by omega, show i + 3 - 4 = i - 1 by omega,
    Nat.add_sub_cancel]
  exact and_iff_right (by omega)

/-- Settles O23: a report has the header before it; a second header overlaps it only at the digit bytes,
and then one of these is unrecognised. -/
theorem reportsAreThreePushesApart : Obligations.ReportsAreThreePushesApart := by
  refine ⟨by decide, fun t run h s bs => ?_⟩
  obtain ⟨u, hu⟩ := runOps_clr_pushes h bs s
  refine ⟨u, _, hu, fun i e hi he => ?_⟩
  have hreport {j : Nat} {e' : Event} (hj : (streamEvents t bs)[j]? = some e') :
      e' ≠ .none ↔ headerBefore bs j = true := by
    obtain ⟨-, rfl⟩ := (getElem?_streamEvents t bs j e').1 hj
    exact streamEvent_ne_none_iff t bs j
  have hh := (hreport hi).1 he
  obtain ⟨h5, -⟩ := (headerBefore_iff bs i).1 hh
  refine ⟨fun j e' hj he' hlt => headerBefore_spacing hh ((hreport hj).1 he') hlt,
    fun e' hj => (hreport hj).trans (headerBefore_add_three h5), fun ⟨hd1, hd2, hd3⟩ hoff => ?_⟩
  obtain ⟨hlt, rfl⟩ := (getElem?_streamEvents t bs i e).1 hi
  obtain ⟨d1, d2, d3, h1, h2, h3, hclass⟩ := streamEvent_of_header t hlt hh
  cases h1.symm.trans hd1
  cases h2.symm.trans hd2
  cases h3.symm.trans hd3
  refine hclass.trans (classify_of_unrecognised (by decide) ?_)
  rcases hoff with hoff | hoff
  · exact ⟨0x9B#8, by simp, hoff⟩
  · exact ⟨0x12#8, by simp, hoff⟩

/-- Settles O24: a HEIGHT event is the classification of the digit bytes behind a header. -/
theorem heightOnlyFromAValidFrame : Obligations.HeightOnlyFromAValidFrame := by
  intro t run h s bs
  obtain ⟨u, hu⟩ := runOps_clr_pushes h bs s
  refine ⟨u, _, hu, fun i r hi => ?_⟩
  obtain ⟨hlt, hr⟩ := (getElem?_streamEvents t bs i _).1 hi
  have hh : headerBefore bs i = true := (streamEvent_ne_none_iff t bs i).1 (by simp [hr])
  obtain ⟨h5, hsentinel, hlen, htype⟩ := (headerBefore_iff bs i).1 hh
  obtain ⟨d1, d2, d3, h1, h2, h3, hclass⟩ := streamEvent_of_header t hlt hh
  obtain ⟨h0, hg1, hg2, hg3, hreport⟩ := classify_eq_height (hclass.symm.trans hr)
  refine ⟨h5, hreport ▸ heightNumber_le _ _ _, d1, d2, d3, ?_, h0, hg1, hg2, hg3⟩
  rw [hsentinel, hlen, htype, h1, h2, h3]
  rfl

end Sys2Proof.Machine
end

section
/-! An EMPTY slot acts as any byte other than the sentinel (R32). -/

namespace Sys2Proof.Machine

/-- Filling the EMPTY slots and shifting a byte in commute. -/
theorem Window.fill_shift (f b : Byte) (w : Window) : (w.fill f).shift b = (w.shift b).fill f := rfl

/-- By R24 (a) a window whose oldest slot holds a byte has no EMPTY slot. -/
theorem Window.fill_of_full {w : Window} {b : Byte} (f : Byte) (hw : w.PrefixFill)
    (h4 : w.w4 = some b) : w.fill f = w := by
  obtain ⟨w0, w1, w2, w3, w4⟩ := w
  obtain ⟨h10, h21, h32, h43⟩ := hw
  obtain rfl : w4 = some b := h4
  obtain ⟨b3, rfl⟩ := Option.isSome_iff_exists.1 (h43 rfl)
  obtain ⟨b2, rfl⟩ := Option.isSome_iff_exists.1 (h32 rfl)
  obtain ⟨b1, rfl⟩ := Option.isSome_iff_exists.1 (h21 rfl)
  obtain ⟨b0, rfl⟩ := Option.isSome_iff_exists.1 (h10 rfl)
  rfl

/-- Under R24 (a), filling the EMPTY slots with no sentinel does not change the event of a PUSH:
with `W[4]` EMPTY neither window fires, else no slot is EMPTY (R32, R114). -/
theorem pushEvent_fill (t : SegTab) {f : Byte} (hf : f ≠ sentinel) {w : Window} (hw : w.PrefixFill)
    (b : Byte) : pushEvent t (w.fill f) b = pushEvent t w b := by
  cases h4 : w.w4 with
  | some x => rw [Window.fill_of_full f hw h4]
  | none =>
    have hfill : (w.fill f).w4 = some f := by simp [Window.fill, h4]
    rw [pushEvent_of_no_sentinel t b (w := w) (by simp [h4]),
      pushEvent_of_no_sentinel t b (by simpa [hfill] using hf)]

/-- The same for the events of a stream (R32). -/
theorem pushEvents_fill (t : SegTab) {f : Byte} (hf : f ≠ sentinel) (bs : List Byte) {w : Window}
    (hw : w.PrefixFill) : pushEvents t (w.fill f) bs = pushEvents t w bs := by
  induction bs generalizing w with
  | nil => rfl
  | cons b bs ih =>
    rw [pushEvents, pushEvents, pushEvent_fill t hf hw, Window.fill_shift, ih (w.shift_prefixFill b hw)]

/-- Settles O30: both runs output their `pushEvents`, which `pushEvents_fill` equates. -/
theorem emptyActsAsAnyOtherByte : Obligations.EmptyActsAsAnyOtherByte := by
  intro t run h f hf s hs bs
  obtain ⟨u, hu, -⟩ := runOps_pushes h bs s
  obtain ⟨u', hu', -⟩ := runOps_pushes h bs { s with win := s.win.fill f }
  exact ⟨u, u', _, hu, pushEvents_fill t hf bs hs ▸ hu'⟩

end Sys2Proof.Machine
end

section
/-! SNOPs between two PUSHes are invisible (R112). -/

namespace Sys2Proof.Machine

/-- SNOP under every meaning at a table clears the outputs alone (R112). -/
theorem MeaningAt.snop {t : SegTab} {run : Meaning} (h : MeaningAt t run) (s : State) :
    run .snop s = .next s.quiet := by
  rcases h with rfl | ⟨rfl, rfl⟩ <;> rfl

/-- An operation does the same on the cleared outputs. -/
theorem MeaningAt.quiet {t : SegTab} {run : Meaning} (h : MeaningAt t run) (i : Instr) (s : State) :
    run i s.quiet = run i s :=
  h.eq_execWith ▸ execWith_of_outputs t i s [] none

/-- Any number of SNOPs before an operation changes nothing in a run (R112). -/
theorem runOps_snops_append {t : SegTab} {run : Meaning} (h : MeaningAt t run) (n : Nat) (i : Instr)
    (is : List Instr) (s : State) :
    runOps run (List.replicate n .snop ++ i :: is) s = runOps run (i :: is) s := by
  induction n generalizing s with
  | zero => rfl
  | succ n ih =>
    have hquiet : runOps run (i :: is) s.quiet = runOps run (i :: is) s := by
      simp only [runOps, h.quiet]
    rw [List.replicate_succ, List.cons_append, runOps_cons_next run _ _ _ _ (h.snop s), ih, hquiet]
    simp

/-- Settles O12: after the first PUSH the SNOPs drop out of the run by `runOps_snops_append`. -/
theorem snopDoesNotAgeTheWindow : Obligations.SnopDoesNotAgeTheWindow := by
  refine ⟨fun s => rfl, fun t run h n b b' s => ?_⟩
  have hsame : runOps run (.push b :: (List.replicate n .snop ++ [.push b'])) s
      = runOps run (pushes [b, b']) s := by
    rw [runOps_cons_next run _ _ _ _ (h.push b s), runOps_snops_append h,
      ← runOps_cons_next run _ _ _ _ (h.push b s)]
    rfl
  obtain ⟨u, hu, -⟩ := runOps_pushes h [b, b'] s
  exact ⟨u, u, _, hsame.trans hu, hu, rfl⟩

end Sys2Proof.Machine
end

section
/-! The relay driver: what an operation and a clock cycle do to the relay bits, said once (R141 to R145). -/

namespace Sys2Proof.Machine

/-- RSET under every meaning at a table clears the outputs and writes both relays (R141). -/
theorem MeaningAt.rset {t : SegTab} {run : Meaning} (h : MeaningAt t run) (v : Bool) (s : State) :
    run (.rset v) s = .next (s.quiet.setRelays v) := by
  rcases h with rfl | ⟨rfl, rfl⟩ <;> rfl

/-- RNOP under every meaning at a table clears the outputs alone (R144). -/
theorem MeaningAt.rnop {t : SegTab} {run : Meaning} (h : MeaningAt t run) (s : State) :
    run .rnop s = .next s.quiet := by
  rcases h with rfl | ⟨rfl, rfl⟩ <;> rfl

/-- A leading RSET adds no event to a run (R141). -/
theorem runOps_rset_cons {t : SegTab} {run : Meaning} (h : MeaningAt t run) (v : Bool)
    (is : List Instr) (s : State) :
    runOps run (.rset v :: is) s = runOps run is (s.quiet.setRelays v) := by
  rw [runOps_cons_next run _ _ _ _ (h.rset v s)]
  simp

/-- What an operation can do to the relay bits: leave both, or, for RSET and RESET alone, write both the
same value. -/
theorem execWith_relays {t : SegTab} {i : Instr} {s u : State} (h : execWith t i s = .next u) :
    (u.r1 = s.r1 ∧ u.r2 = s.r2)
    ∨ (∃ v, i = .rset v ∧ u.r1 = v ∧ u.r2 = v)
    ∨ (i = .reset ∧ u.r1 = false ∧ u.r2 = false) := by
  obtain ⟨-, b, rfl⟩ | ⟨-, rfl⟩ | ⟨-, rfl⟩ | ⟨b, -, rfl⟩ | ⟨d1, d2, d3, -, rfl⟩ | ⟨on, rfl, rfl⟩
    | ⟨rfl, rfl⟩ := execWith_cases h
  · exact .inl ⟨rfl, rfl⟩
  · exact .inl ⟨rfl, rfl⟩
  · exact .inl ⟨rfl, rfl⟩
  · exact .inl ⟨rfl, rfl⟩
  · exact .inl ((State.pushBytes_frame t _ _).imp_right And.left)
  · exact .inr (.inl ⟨on, rfl, rfl, rfl⟩)
  · exact .inr (.inr ⟨rfl, rfl, rfl⟩)

/-- The synchronizer's part of a cycle leaves the relay bits (R147). -/
theorem cycleSync_relays (t : SegTab) (p : Pins) (s : State) :
    (cycleSync t p s).r1 = s.r1 ∧ (cycleSync t p s).r2 = s.r2 := by
  unfold cycleSync
  split_ifs <;> exact ⟨rfl, rfl⟩

/-- The relay bits after a clock cycle: OFF by `rst`, else `relay_on` by `relay_we`, else held. -/
theorem cycle_relays (t : SegTab) (p : Pins) (s : State) :
    (cycle t p s).r1 = (if p.rst then false else if p.relayWe then p.relayOn else s.r1)
    ∧ (cycle t p s).r2 = (if p.rst then false else if p.relayWe then p.relayOn else s.r2) := by
  unfold cycle cycleRelay
  split_ifs
  · exact ⟨rfl, rfl⟩
  · exact ⟨rfl, rfl⟩
  · exact cycleSync_relays t p _

/-- No operation writes one relay bit alone, or the two different values (R142). -/
theorem execWith_relays_paired {t : SegTab} {i : Instr} {s u : State} (h : execWith t i s = .next u) :
    (u.r1 = s.r1 ∧ u.r2 = s.r2) ∨ u.r1 = u.r2 := by
  obtain hkept | ⟨v, -, h1, h2⟩ | ⟨-, h1, h2⟩ := execWith_relays h
  · exact .inl hkept
  · exact .inr (h1.trans h2.symm)
  · exact .inr (h1.trans h2.symm)

/-- No clock cycle writes one relay bit alone, or the two different values (R142). -/
theorem cycle_relays_paired (t : SegTab) (p : Pins) (s : State) :
    ((cycle t p s).r1 = s.r1 ∧ (cycle t p s).r2 = s.r2) ∨ (cycle t p s).r1 = (cycle t p s).r2 := by
  obtain ⟨h1, h2⟩ := cycle_relays t p s
  rw [h1, h2]
  split_ifs
  · exact .inr rfl
  · exact .inr rfl
  · exact .inl ⟨rfl, rfl⟩

/-- Settles O32, by what a step can do: an idle step, a low `rst` pin and six bytes pushed leave both
bits; an operation and a cycle write them as a pair by their own lemmas. -/
theorem relaysAreWrittenAsAPair : Obligations.RelaysAreWrittenAsAPair := by
  intro t run st hrun hst
  rw [hrun.eq_execWith, hst.eq_stepWith]
  refine ⟨fun i s u h => execWith_relays_paired h, fun s u h => ?_⟩
  rcases advance_cases h with ⟨rfl, -⟩ | ⟨w, rest, -, hop⟩ | ⟨p, rest, -, rfl⟩
  · exact .inl ⟨rfl, rfl⟩
  · rcases hop with ⟨i, -, hi⟩ | ⟨-, rfl⟩ | ⟨f, -, rfl⟩
    · exact execWith_relays_paired (s := { s with pending := rest }) hi
    · exact .inl ⟨rfl, rfl⟩
    · exact .inl ((State.pushBytes_frame t _ _).imp_right And.left)
  · exact cycle_relays_paired t p _

/-- Settles O34: of the operations only RSET and RESET have a case of `execWith_relays` that writes, and
a cycle without `rst` and `relay_we` takes the holding branch of `cycle_relays`. -/
theorem onlyRsetAndResetChangeRelays : Obligations.OnlyRsetAndResetChangeRelays := by
  refine ⟨MeaningAt.rnop (t := segTab) (.inr ⟨rfl, rfl⟩), ?_, fun t p s hrst hwe => ?_⟩
  · intro t run hrun i s u h hrset hreset
    rw [hrun.eq_execWith] at h
    obtain hkept | ⟨v, hi, -⟩ | ⟨hi, -⟩ := execWith_relays h
    · exact hkept
    · exact absurd hi (hrset v)
    · exact absurd hi hreset
  · simpa [hrst, hwe] using cycle_relays t p s

/-- Settles O31: `MeaningAt.rset` for `exec`. -/
theorem rsetWritesBothRelays : Obligations.RsetWritesBothRelays :=
  MeaningAt.rset (t := segTab) (.inr ⟨rfl, rfl⟩)

/-- Settles O33: by `runOps_rset_cons` each run ends in the written state, and writing one value twice is
writing it once. -/
theorem rsetIsIdempotent : Obligations.RsetIsIdempotent := by
  intro v s s'
  have hexec : MeaningAt segTab exec := .inr ⟨rfl, rfl⟩
  refine ⟨s.quiet.setRelays v, (s.quiet.setRelays v).quiet.setRelays v, s'.quiet.setRelays v,
    ?_, ?_, ?_, rfl, rfl, rfl⟩
  · rw [runOps_rset_cons hexec, runOps_nil]
  · rw [runOps_rset_cons hexec, runOps_rset_cons hexec, runOps_nil]
  · rw [runOps_rset_cons hexec, runOps_nil]

/-- Settles O36: `relayPin` branches on the active level alone, and the default level is 1. -/
theorem relayPinsFollowTheActiveLevel : Obligations.RelayPinsFollowTheActiveLevel :=
  fun _ => ⟨rfl, rfl, rfl⟩

end Sys2Proof.Machine
end

section
/-! Nothing stops the block: every operation and every step ends in a next state (R180). -/

namespace Sys2Proof.Machine

/-- Every operation of the machine at a table is `.next` of its update of the state. -/
theorem execWith_total (t : SegTab) (i : Instr) (s : State) : ∃ u, execWith t i s = .next u := by
  cases i <;> exact ⟨_, rfl⟩

/-- Every operation ends in a next state, under every meaning at a table. -/
theorem MeaningAt.total {t : SegTab} {run : Meaning} (h : MeaningAt t run) (i : Instr) (s : State) :
    ∃ u, run i s = .next u :=
  h.eq_execWith ▸ execWith_total t i s

/-- Every word at a port ends in a next state, the two kinds that select no operation included. -/
theorem MeaningAt.runWord_total {t : SegTab} {run : Meaning} (h : MeaningAt t run) (w : OpWord)
    (s : State) : ∃ u, runWord t run w s = .next u := by
  unfold runWord
  split
  · next i _ => exact h.total i s
  · exact ⟨_, rfl⟩
  · exact ⟨_, rfl⟩

/-- Every step ends in a next state, whatever is presented. -/
theorem MeaningAt.advance_total {t : SegTab} {run : Meaning} (h : MeaningAt t run) (s : State) :
    ∃ u, advance t run s = .next u := by
  unfold advance
  split
  · exact ⟨_, rfl⟩
  · next w rest _ => exact h.runWord_total w { s with pending := rest }
  · exact ⟨_, rfl⟩

/-- A recognised frame with an unrecognised digit byte is BLANK where D1 is 0x00, else INVALID (R116). -/
theorem classify_invalid_or_blank {t : SegTab} {d1 d2 d3 : Byte}
    (hu : ∃ d ∈ [d1, d2, d3], (decSeg t d).digit = .unrecognised) :
    classify t d1 d2 d3 = .invalid ∨ classify t d1 d2 d3 = .blank := by
  by_cases h0 : d1 = 0x00#8
  · exact .inr (h0 ▸ classify_zero t d2 d3)
  · exact .inl (classify_of_unrecognised h0 hu)

/-- An unrecognised pattern is reported as the digit -1 (R94). -/
theorem digitValue_of_unrecognised {t : SegTab} {b : Byte} (h : t (b.extractLsb' 0 7) = .unrecognised) :
    digitValue (decSeg t b).digit = -1 := by
  rw [decSeg_digit, h]
  rfl

/-- Settles O58: totality by the operation and by what a step finds presented; `Fault` has no constructor;
bad input by the lemmas of the decoder, of `classify` and of `pushEvent`. -/
theorem nothingEverStops : Obligations.NothingEverStops := by
  have hexec : MeaningAt segTab exec := .inr ⟨rfl, rfl⟩
  have hwith (t : SegTab) : MeaningAt t (execWith t) := .inl rfl
  exact ⟨hexec.total, hexec.advance_total, execWith_total, fun t => (hwith t).advance_total, nofun,
    fun _ _ => digitValue_of_unrecognised, fun _ _ _ _ => classify_invalid_or_blank,
    pushEvent_of_not_fires⟩

end Sys2Proof.Machine
end

section
/-! A cycle with `rst` set: RESET over every other input (R185 (1), R210). -/

namespace Sys2Proof.Machine

/-- With `rst` set a cycle resets the block and shows DEC of `seg_in`, whatever the other pins are. -/
theorem cycle_of_rst (t : SegTab) {p : Pins} (s : State) (h : p.rst = true) :
    cycle t p s = (s.quiet.showDec t p.segIn).resetBlock := if_pos h

/-- With `rst` set no byte is accepted (R30). -/
theorem not_accepts_of_rst {p : Pins} (h : p.rst = true) : accepts p = false := by
  simp [accepts, h]

/-- After a cycle with `rst` set the seven items have their reset values (R29). -/
theorem cycle_block_of_rst (t : SegTab) {p : Pins} (s : State) (h : p.rst = true) :
    (cycle t p s).block = State.reset.block := by
  rw [cycle_of_rst t s h]
  rfl

/-- The event pins of a cycle that accepts no byte are all 0 (R30, R71). -/
theorem outputs_of_not_accepts (t : SegTab) {p : Pins} (s : State) (h : accepts p = false) :
    (outputs t p s).evtValid = false ∧ (outputs t p s).evtKind = 0#2
      ∧ (outputs t p s).evtN = 0#10 ∧ (outputs t p s).evtDp = false
      ∧ (outputs t p s).evtG1 = 0#4 ∧ (outputs t p s).evtG2 = 0#4 ∧ (outputs t p s).evtG3 = 0#4
      ∧ (outputs t p s).evtP1 = false ∧ (outputs t p s).evtP2 = false
      ∧ (outputs t p s).evtP3 = false := by
  simp [outputs, h, cycleEvent_of_not_accepts t p s h, eventKind, eventReport]

/-- Settles O38: RESET and a cycle with `rst` both end in `resetBlock`, such a cycle accepts no byte and so
has no event on its pins, and two such cycles both leave the reset block. -/
theorem resetOverridesEverything : Obligations.ResetOverridesEverything := by
  refine ⟨fun s => rfl, fun t p s h => ?_, fun t p p' s h h' => ?_⟩
  · obtain ⟨hvalid, hkind, hN, hdp, hg1, hg2, hg3, hp1, hp2, hp3⟩ :=
      outputs_of_not_accepts t s (not_accepts_of_rst h)
    exact ⟨cycle_of_rst t s h, hvalid, hkind, hN, hdp, hg1, hg2, hg3, hp1, hp2, hp3, rfl⟩
  · exact (cycle_block_of_rst t _ h').trans (cycle_block_of_rst t s h).symm

end Sys2Proof.Machine
end

section
/-! The formats read back (`30_encoding.md` sections 1 to 4): every operation from its canonical word, every
segment byte as its one SEG.* row, and every word of the three ports. -/

namespace Sys2Proof

open Machine

/-! ### Operations by the row of the table -/

/-- Case analysis on an operation, with the ten SEG.* rows of the digits as one case (R63). -/
theorem Instr.cases_byRow {motive : Instr → Prop} (dec : ∀ b, motive (.dec b))
    (segBlank : ∀ p, motive (.segBlank p)) (segDigit : ∀ p n, motive (segOfDigit p n))
    (segInvalid : ∀ p s, motive (.segInvalid p s)) (clr : motive .clr)
    (push : ∀ b, motive (.push b)) (snop : motive .snop) (rset : ∀ on, motive (.rset on))
    (rnop : motive .rnop) (reset : motive .reset)
    (hfHeight : ∀ d1 d2 d3, motive (.hfHeight d1 d2 d3)) (i : Instr) : motive i := by
  cases i with
  | dec b => exact dec b
  | segBlank p => exact segBlank p
  | seg0 p => exact segDigit p 0
  | seg1 p => exact segDigit p 1
  | seg2 p => exact segDigit p 2
  | seg3 p => exact segDigit p 3
  | seg4 p => exact segDigit p 4
  | seg5 p => exact segDigit p 5
  | seg6 p => exact segDigit p 6
  | seg7 p => exact segDigit p 7
  | seg8 p => exact segDigit p 8
  | seg9 p => exact segDigit p 9
  | segInvalid p s => exact segInvalid p s
  | clr => exact clr
  | push b => exact push b
  | snop => exact snop
  | rset on => exact rset on
  | rnop => exact rnop
  | reset => exact reset
  | hfHeight d1 d2 d3 => exact hfHeight d1 d2 d3

/-- The row of a digit takes every point (R63). -/
@[simp] theorem wfWith_segOfDigit (t : SegTab) (p : Bool) (n : Fin 10) :
    (segOfDigit p n).wfWith t = true := by
  fin_cases n <;> rfl

/-- The word of a digit's row is the segment byte of the row's pattern (R63). -/
@[simp] theorem encodeWith_segOfDigit (t : SegTab) (p : Bool) (n : Fin 10) :
    encodeWith t (segOfDigit p n) = .sb (segByte p (rowPattern t (.digit n))) := by
  fin_cases n <;> rfl

/-- SEG.INVALID is well-formed for the unrecognised patterns (R94). -/
theorem wfWith_segInvalid_iff (t : SegTab) (p : Bool) (s : Pattern) :
    (Instr.segInvalid p s).wfWith t = true ↔ t s = .unrecognised :=
  decide_eq_true_iff

/-! ### The row of a segment byte -/

/-- A segment byte whose pattern is a digit's falls under the digit's row (R63). -/
theorem decodeSBWith_of_digit {t : SegTab} {b : Byte} {n : Fin 10}
    (h : t (patternBits b) = .digit n) : decodeSBWith t b = segOfDigit (pointBit b) n := by
  rw [decodeSBWith, h]

/-- A segment byte whose pattern is blank falls under SEG.BLANK (R93). -/
theorem decodeSBWith_of_blank {t : SegTab} {b : Byte} (h : t (patternBits b) = .blank) :
    decodeSBWith t b = .segBlank (pointBit b) := by
  rw [decodeSBWith, h]

/-- A segment byte whose pattern is unrecognised falls under SEG.INVALID (R94). -/
theorem decodeSBWith_of_unrecognised {t : SegTab} {b : Byte}
    (h : t (patternBits b) = .unrecognised) :
    decodeSBWith t b = .segInvalid (pointBit b) (patternBits b) := by
  rw [decodeSBWith, h]

/-- In an admissible table the byte of a digit's row is read back as the row. -/
theorem decodeSBWith_digit_byte {t : SegTab} (h : t.Admissible) (p : Bool) (n : Fin 10) :
    decodeSBWith t (segByte p (rowPattern t (.digit n))) = segOfDigit p n := by
  rw [decodeSBWith_of_digit (n := n) (by rw [patternBits_segByte, rowPattern_digit h]),
    pointBit_segByte]

/-- In an admissible table the unlit byte is read back as SEG.BLANK. -/
theorem decodeSBWith_blank_byte {t : SegTab} (h : t.Admissible) (p : Bool) :
    decodeSBWith t (segByte p (rowPattern t .blank)) = .segBlank p := by
  rw [decodeSBWith_of_blank (by rw [patternBits_segByte, rowPattern_blank h, h.zero_blank]),
    pointBit_segByte]

/-- The byte of an unrecognised pattern is read back as SEG.INVALID of the pattern. -/
theorem decodeSBWith_invalid_byte {t : SegTab} (p : Bool) {s : Pattern} (h : t s = .unrecognised) :
    decodeSBWith t (segByte p s) = .segInvalid p s := by
  rw [decodeSBWith_of_unrecognised (by rwa [patternBits_segByte]), pointBit_segByte,
    patternBits_segByte]

/-! ### The other formats -/

/-- The canonical word of PUSH is read back as PUSH of its byte (R68). -/
theorem decodeSP_push_word (b : Byte) : decodeSP (0b01#2 ++ b) = .push b := by
  simp only [decodeSP_eq_push_iff, BitVec.getLsbD_append, BitVec.extractLsb'_append_eq_ite]
  simp

/-- An RP word is RNOP where bit 1 is clear (R69). -/
theorem decodeRP_eq_rnop_iff (w : RelayWord) : decodeRP w = .rnop ↔ w.getLsbD 1 = false := by
  unfold decodeRP
  cases w.getLsbD 1 <;> simp

/-- The canonical word of RSET is read back as RSET of its bit (R69). -/
theorem decodeRP_rset_word (on : Bool) : decodeRP (0b1#1 ++ BitVec.ofBool on) = .rset on := by
  revert on; decide

/-- The bytes of six put together as a frame word, in arrival order (R65). -/
theorem frameBytes_append (b0 b1 b2 b3 b4 b5 : Byte) :
    frameBytes (b0 ++ b1 ++ b2 ++ b3 ++ b4 ++ b5) = [b0, b1, b2, b3, b4, b5] := by
  simp only [frameBytes, BitVec.extractLsb'_append_eq_ite]
  simp

/-- A word with the header of a height frame is HF.HEIGHT of its three last bytes (R65). -/
theorem decodeHF_of_frameBytes {w : FrameWord} {d1 d2 d3 : Byte}
    (h : frameBytes w = [sentinel, hfLen, hfType, d1, d2, d3]) :
    decodeHF w = .ok (.hfHeight d1 d2 d3) := by
  simp only [frameBytes, List.cons.injEq, and_true] at h
  obtain ⟨h0, h1, h2, h3, h4, h5⟩ := h
  rw [decodeHF, if_pos ⟨h0, h1, h2⟩, h3, h4, h5]

/-! ### Words and operations -/

/-- The decoder reads every well-formed operation back from its canonical word, at an admissible table. -/
theorem decodeWith_encodeWith {t : SegTab} (h : t.Admissible) (i : Instr) (hi : i.wfWith t = true) :
    decodeWith t (encodeWith t i) = .ok i := by
  cases i using Instr.cases_byRow with
  | dec b => rfl
  | segBlank p => exact congrArg Except.ok (decodeSBWith_blank_byte h p)
  | segDigit p n =>
    rw [encodeWith_segOfDigit]
    exact congrArg Except.ok (decodeSBWith_digit_byte h p n)
  | segInvalid p s =>
    exact congrArg Except.ok (decodeSBWith_invalid_byte p ((wfWith_segInvalid_iff t p s).1 hi))
  | clr => rfl
  | push b => exact congrArg Except.ok (decodeSP_push_word b)
  | snop => rfl
  | rset on => exact congrArg Except.ok (decodeRP_rset_word on)
  | rnop => rfl
  | reset => rfl
  | hfHeight d1 d2 d3 => exact decodeHF_of_frameBytes (frameBytes_append _ _ _ d1 d2 d3)

/-- Settles O47: `decodeWith_encodeWith`, the table in force being admissible. -/
theorem decodeOfEncodeIsTheInstruction : Obligations.DecodeOfEncodeIsTheInstruction :=
  ⟨decodeWith_encodeWith segTab_admissible, fun _ h => decodeWith_encodeWith h⟩

/-- The row of a segment byte is a well-formed operation (R94). -/
theorem wfWith_decodeSBWith (t : SegTab) (b : Byte) : (decodeSBWith t b).wfWith t = true := by
  cases h : t (patternBits b) with
  | digit n => rw [decodeSBWith_of_digit h, wfWith_segOfDigit]
  | blank => rw [decodeSBWith_of_blank h]; rfl
  | unrecognised => rw [decodeSBWith_of_unrecognised h, wfWith_segInvalid_iff, h]

/-- In an admissible table the word of the row of a segment byte is that byte. -/
theorem encodeWith_decodeSBWith {t : SegTab} (ht : t.Admissible) (b : Byte) :
    encodeWith t (decodeSBWith t b) = .sb b := by
  cases h : t (patternBits b) with
  | digit n => rw [decodeSBWith_of_digit h, encodeWith_segOfDigit, ← eq_rowPattern ht h, segByte_fields]
  | blank =>
    rw [decodeSBWith_of_blank h, encodeWith, rowPattern_blank ht, ← ht.only_zero_blank _ h,
      segByte_fields]
  | unrecognised => rw [decodeSBWith_of_unrecognised h, encodeWith, segByte_fields]

/-- In an admissible table an operation with the word of a segment byte is the byte's row, since the
decoder reads it back. -/
theorem eq_decodeSBWith_of_encodeWith {t : SegTab} (ht : t.Admissible) {i : Instr} {b : Byte}
    (hi : i.wfWith t = true) (he : encodeWith t i = .sb b) : i = decodeSBWith t b := by
  have hback : Except.ok i = decodeWith t (.sb b) := he ▸ (decodeWith_encodeWith ht i hi).symm
  exact Except.ok.inj hback

/-- Settles O48: the row is well-formed, has the byte as its word, and is what the decoder reads. -/
theorem everySegmentByteHasOneRow : Obligations.EverySegmentByteHasOneRow := by
  have hrow (t : SegTab) (ht : t.Admissible) (b : Byte) : (decodeSBWith t b).wfWith t = true
      ∧ encodeWith t (decodeSBWith t b) = .sb b
      ∧ ∀ i : Instr, i.wfWith t = true → encodeWith t i = .sb b → i = decodeSBWith t b :=
    ⟨wfWith_decodeSBWith t b, encodeWith_decodeSBWith ht b,
      fun _ => eq_decodeSBWith_of_encodeWith ht⟩
  exact ⟨hrow segTab segTab_admissible, hrow⟩

/-- Settles O50: the decoder is total at the three ports, and the operation of an SP or RP word is that of
its selecting bits. -/
theorem everyPortWordSelectsAnOperation : Obligations.EveryPortWordSelectsAnOperation := by
  refine ⟨fun b => ⟨_, rfl⟩, fun w => ⟨_, rfl⟩, fun w => ⟨_, rfl⟩, fun w w' h h' => ?_,
    fun w w' h9 h8 h9' h8' => ?_, fun w w' h h' => ?_⟩
  · rw [(decode_sp_eq_ok_iff w .clr).2 ((decodeSP_eq_clr_iff w).2 h),
      (decode_sp_eq_ok_iff w' .clr).2 ((decodeSP_eq_clr_iff w').2 h')]
  · rw [(decode_sp_eq_ok_iff w .snop).2 ((decodeSP_eq_snop_iff w).2 ⟨h9, h8⟩),
      (decode_sp_eq_ok_iff w' .snop).2 ((decodeSP_eq_snop_iff w').2 ⟨h9', h8'⟩)]
  · rw [(decode_rp_eq_ok_iff w .rnop).2 ((decodeRP_eq_rnop_iff w).2 h),
      (decode_rp_eq_ok_iff w' .rnop).2 ((decodeRP_eq_rnop_iff w').2 h')]

/-- Settles O51: each word is evaluated. -/
theorem wordsOfTheSpecDecode : Obligations.WordsOfTheSpecDecode :=
  ⟨rfl, rfl, rfl, rfl, rfl, rfl, rfl⟩

end Sys2Proof
end

section
/-! The SEG.* rows at the decoder port (`40_decoder.md`, R63, R93, R94, R97). -/

namespace Sys2Proof.Machine

/-- The row of a digit means DEC of the byte of the row's pattern (R63). -/
theorem execWith_segOfDigit (t : SegTab) (p : Bool) (n : Fin 10) (s : State) :
    execWith t (segOfDigit p n) s = rowWith t (.digit n) p s := by
  fin_cases n <;> rfl

/-- An operation whose word is a segment byte does what DEC of the byte does (R97). -/
theorem execWith_of_encodeWith_sb {t : SegTab} {i : Instr} {b : Byte} (h : encodeWith t i = .sb b)
    (s : State) : execWith t i s = execWith t (.dec b) s := by
  cases i using Instr.cases_byRow with
  | segDigit p n =>
    rw [encodeWith_segOfDigit] at h
    cases h
    exact execWith_segOfDigit t p n s
  | segBlank p => cases h; rfl
  | segInvalid p x => cases h; rfl
  | _ => cases h

/-- In an admissible table the row of a segment byte does what DEC of the byte does. -/
theorem execWith_decodeSBWith {t : SegTab} (ht : t.Admissible) (b : Byte) (s : State) :
    execWith t (decodeSBWith t b) s = execWith t (.dec b) s :=
  execWith_of_encodeWith_sb (encodeWith_decodeSBWith ht b) s

/-- Settles O10: the row of a byte has the byte as its word. -/
theorem segRowActsAsDecOfItsByte : Obligations.SegRowActsAsDecOfItsByte := by
  refine ⟨fun b s => ?_, fun t ht => execWith_decodeSBWith ht⟩
  rw [exec_eq_execWith]
  exact execWith_decodeSBWith segTab_admissible b s

/-- A row shows its own digit where the table has the digit at the row's pattern (R97). -/
theorem rowWith_shows {t : SegTab} {g : Digit} (h : t (rowPattern t g) = g) (p : Bool) (s : State) :
    rowWith t g p s = .next { s with events := [], seg := some ⟨g, p⟩ } := by
  rw [rowWith, decWith, State.showDec, decSeg_segByte, h]
  rfl

/-- In an admissible table the row of a digit shows the digit (R63). -/
theorem execWith_segOfDigit_shows {t : SegTab} (ht : t.Admissible) (p : Bool) (n : Fin 10)
    (s : State) : execWith t (segOfDigit p n) s
      = .next { s with events := [], seg := some ⟨.digit n, p⟩ } := by
  rw [execWith_segOfDigit, rowWith_shows (rowPattern_digit ht n)]

/-- In an admissible table SEG.BLANK shows blank (R93). -/
theorem execWith_segBlank_shows {t : SegTab} (ht : t.Admissible) (p : Bool) (s : State) :
    execWith t (.segBlank p) s = .next { s with events := [], seg := some ⟨.blank, p⟩ } :=
  rowWith_shows (rowPattern_of_exists t _ ⟨0x00#7, ht.zero_blank⟩) p s

/-- Settles O8: the rows of the table in force are those of an admissible one, digit by digit. -/
theorem segRowsShowTheirDigit : Obligations.SegRowsShowTheirDigit := by
  refine ⟨fun p s => ?_,
    fun t ht p s => ⟨execWith_segBlank_shows ht p s, fun n => execWith_segOfDigit_shows ht p n s⟩⟩
  have hdigit (n : Fin 10) := execWith_segOfDigit_shows segTab_admissible p n s
  exact ⟨execWith_segBlank_shows segTab_admissible p s, hdigit 0, hdigit 1, hdigit 2, hdigit 3,
    hdigit 4, hdigit 5, hdigit 6, hdigit 7, hdigit 8, hdigit 9⟩

/-- SEG.INVALID shows what the table gives for its pattern (R94). -/
theorem execWith_segInvalid_shows (t : SegTab) (p : Bool) (x : Pattern) (s : State) :
    execWith t (.segInvalid p x) s = .next { s with events := [], seg := some ⟨t x, p⟩ } := by
  rw [execWith, decWith, State.showDec, decSeg_segByte]
  rfl

/-- A well-formed SEG.INVALID shows an unrecognised pattern (R94). -/
theorem execWith_segInvalid_of_wfWith {t : SegTab} {p : Bool} {x : Pattern}
    (h : (Instr.segInvalid p x).wfWith t = true) (s : State) :
    execWith t (.segInvalid p x) s = .next { s with events := [], seg := some ⟨.unrecognised, p⟩ } := by
  rw [execWith_segInvalid_shows, (wfWith_segInvalid_iff t p x).1 h]

/-- Settles O9: SEG.INVALID shows the table's entry, which well-formedness makes unrecognised. -/
theorem segInvalidShowsUnrecognised : Obligations.SegInvalidShowsUnrecognised :=
  ⟨execWith_segInvalid_shows segTab,
    fun _ _ s h => execWith_segInvalid_of_wfWith (t := segTab) h s,
    fun _ _ _ s h => execWith_segInvalid_of_wfWith h s⟩

/-- The pattern of a byte given by its number is the number's seven low bits (R61). -/
theorem patternBits_ofNat (n : Nat) : patternBits (BitVec.ofNat 8 n) = BitVec.ofNat 7 n := by
  apply BitVec.eq_of_toNat_eq
  simp only [patternBits, BitVec.extractLsb'_toNat, BitVec.toNat_ofNat, Nat.shiftRight_zero]
  omega

/-- A half of the bytes, with either point, has the 117 unrecognised patterns once each (R94). -/
theorem length_filter_unrecognised_half (start : Nat) (h : start % 128 = 0) :
    ((List.range 128).filter fun n =>
      (decSeg segTab (BitVec.ofNat 8 (start + n))).digit == .unrecognised).length = 117 := by
  obtain ⟨-, -, -, hcount⟩ := patternsOffTheTableAreUnrecognised
  have hpattern (n : Nat) : patternBits (BitVec.ofNat 8 (start + n)) = BitVec.ofNat 7 n := by
    rw [patternBits_ofNat]
    apply BitVec.eq_of_toNat_eq
    simp only [BitVec.toNat_ofNat]
    omega
  simpa only [decSeg, hpattern] using hcount

/-- Settles O7: the eleven rows are evaluated, and the count is that of the patterns, once without and
once with the point. -/
theorem defaultTableEntries : Obligations.DefaultTableEntries := by
  refine ⟨by decide, ?_⟩
  have hlow := length_filter_unrecognised_half 0 rfl
  have hhigh := length_filter_unrecognised_half 128 rfl
  rw [show 256 = 128 + 128 from rfl, List.range_add, List.filter_append, List.length_append,
    List.filter_map, List.length_map]
  simp only [Nat.zero_add] at hlow
  simp only [Function.comp_def, hlow, hhigh]

end Sys2Proof.Machine
end

section
/-! The frame of every operation (R47, R147): the window and the events are a function of the window alone,
each relay bit of itself alone; and runs of operations, by these functions. -/

namespace Sys2Proof.Machine

/-! ### Pushing bytes, by the window -/

/-- Pushing bytes shifts each into the window (R121). -/
@[simp] theorem State.pushBytes_win (t : SegTab) (bs : List Byte) (s : State) :
    (s.pushBytes t bs).win = bs.foldl Window.shift s.win := by
  induction bs generalizing s with
  | nil => rfl
  | cons b bs ih => exact ih (s.pushByte t b)

/-- Pushing bytes adds their `pushEvents` to the events (R113). -/
@[simp] theorem State.pushBytes_events (t : SegTab) (bs : List Byte) (s : State) :
    (s.pushBytes t bs).events = s.events ++ pushEvents t s.win bs := by
  induction bs generalizing s with
  | nil => simp [pushEvents]
  | cons b bs ih => simp [ih, pushEvents]

/-! ### What an operation does to the window and to a relay bit -/

/-- The window after an operation, by the window before it. -/
def windowAfter : Instr → Window → Window
  | .clr, _ => Window.empty
  | .reset, _ => Window.empty
  | .push b, w => w.shift b
  | .hfHeight d1 d2 d3, w => [sentinel, hfLen, hfType, d1, d2, d3].foldl Window.shift w
  | _, w => w

/-- The events an operation outputs, by the window before it. -/
def eventsOn (t : SegTab) : Instr → Window → List Event
  | .push b, w => pushEvents t w [b]
  | .hfHeight d1 d2 d3, w => pushEvents t w [sentinel, hfLen, hfType, d1, d2, d3]
  | _, _ => []

/-- A relay bit after an operation, by the bit before it. -/
def relayAfter : Bool → Instr → Bool
  | _, .rset v => v
  | _, .reset => false
  | r, _ => r

/-- What an operation does is what `windowAfter`, `eventsOn` and `relayAfter` say. -/
theorem execWith_effect {t : SegTab} {i : Instr} {s u : State} (h : execWith t i s = .next u) :
    u.win = windowAfter i s.win ∧ u.events = eventsOn t i s.win
      ∧ u.r1 = relayAfter s.r1 i ∧ u.r2 = relayAfter s.r2 i := by
  cases i <;> cases h <;> exact ⟨rfl, rfl, rfl, rfl⟩

/-- An operation of no unit but the synchronizer and no RESET leaves the window and outputs nothing. -/
theorem window_of_not_sync {i : Instr} (hs : isSyncOp i = false) (hr : i ≠ .reset) (t : SegTab)
    (w : Window) : windowAfter i w = w ∧ eventsOn t i w = [] := by
  unfold windowAfter eventsOn
  cases i <;> simp_all [isSyncOp, Instr.unit]

/-- An operation of no unit but the relay driver and no RESET leaves a relay bit. -/
theorem relayAfter_of_not_relay {i : Instr} (hs : isRelayOp i = false) (hr : i ≠ .reset) (r : Bool) :
    relayAfter r i = r := by
  unfold relayAfter
  cases i <;> simp_all [isRelayOp, Instr.unit]

/-! ### Runs -/

/-- The window and the events so far, after one more operation. -/
def syncAfter (t : SegTab) (x : Window × List Event) (i : Instr) : Window × List Event :=
  (windowAfter i x.1, x.2 ++ eventsOn t i x.1)

/-- A run ends in the window, the events and the relay bits that its operations give one after the
other; `es` are events output before it. -/
theorem runOps_effect {t : SegTab} {run : Meaning} (h : MeaningAt t run) (is : List Instr) (s : State)
    (es : List Event) :
    ∃ u evs, runOps run is s = some (u, evs)
      ∧ is.foldl (syncAfter t) (s.win, es) = (u.win, es ++ evs)
      ∧ is.foldl relayAfter s.r1 = u.r1 ∧ is.foldl relayAfter s.r2 = u.r2 := by
  induction is generalizing s es with
  | nil => exact ⟨s, [], rfl, by simp, rfl, rfl⟩
  | cons i is ih =>
    obtain ⟨s', hs'⟩ := h.total i s
    obtain ⟨hwin, hevents, hr1, hr2⟩ := execWith_effect (h.eq_execWith ▸ hs')
    obtain ⟨u, evs, hrun, hsync, hu1, hu2⟩ := ih s' (es ++ s'.events)
    refine ⟨u, s'.events ++ evs, ?_, ?_, ?_, ?_⟩
    · rw [runOps_cons_next run i is s s' hs', hrun]
      rfl
    · rw [List.foldl_cons, syncAfter, ← hwin, ← hevents, hsync, List.append_assoc]
    · rw [List.foldl_cons, ← hr1, hu1]
    · rw [List.foldl_cons, ← hr2, hu2]

/-- Two runs from one state whose operations do the same to window, events and relay bits agree. -/
theorem runOps_agree {t : SegTab} {run : Meaning} (h : MeaningAt t run) {is js : List Instr}
    (hsync : ∀ x, is.foldl (syncAfter t) x = js.foldl (syncAfter t) x)
    (hrelay : ∀ r, is.foldl relayAfter r = js.foldl relayAfter r) (s : State) :
    ∃ u u' evs, runOps run is s = some (u, evs) ∧ runOps run js s = some (u', evs)
      ∧ u.block = u'.block := by
  obtain ⟨u, evs, hu, hw, h1, h2⟩ := runOps_effect h is s []
  obtain ⟨u', evs', hu', hw', h1', h2'⟩ := runOps_effect h js s []
  obtain ⟨hwin, rfl⟩ : u.win = u'.win ∧ evs = evs' :=
    Prod.ext_iff.1 (hw.symm.trans ((hsync _).trans hw'))
  refine ⟨u, u', evs, hu, hu', ?_⟩
  rw [State.block, State.block, hwin, ← h1, ← h1', ← h2, ← h2', hrelay, hrelay]

/-- Elements that a fold ignores may be filtered out. -/
theorem foldl_filter_of_ignored {α β : Type} {f : β → α → β} {keep : α → Bool} {l : List α}
    (h : ∀ a ∈ l, keep a = false → ∀ b, f b a = b) (b : β) :
    (l.filter keep).foldl f b = l.foldl f b := by
  rw [List.foldl_filter]
  refine List.foldl_ext _ _ b fun b a ha => ?_
  cases hk : keep a with
  | true => rfl
  | false => exact (h a ha hk b).symm

/-- A run without RESET does to window and events what its synchronizer operations do (R47). -/
theorem foldl_syncAfter_filter (t : SegTab) {is : List Instr} (h : ∀ i ∈ is, i ≠ .reset)
    (x : Window × List Event) :
    (is.filter isSyncOp).foldl (syncAfter t) x = is.foldl (syncAfter t) x := by
  refine foldl_filter_of_ignored (fun i hi hs y => ?_) x
  obtain ⟨hwin, hevents⟩ := window_of_not_sync hs (h i hi) t y.1
  rw [syncAfter, hwin, hevents, List.append_nil]

/-- A run without RESET does to a relay bit what its relay operations do (R47). -/
theorem foldl_relayAfter_filter {is : List Instr} (h : ∀ i ∈ is, i ≠ .reset) (r : Bool) :
    (is.filter isRelayOp).foldl relayAfter r = is.foldl relayAfter r :=
  foldl_filter_of_ignored (fun i hi hs => relayAfter_of_not_relay hs (h i hi)) r

/-- Settles O42: each run does what its synchronizer and its relay operations do, and these are the same
lists. -/
theorem interleavingDoesNotMatter : Obligations.InterleavingDoesNotMatter := by
  intro t run h is js s his hjs hsync hrelay
  refine runOps_agree h (fun x => ?_) (fun r => ?_) s
  · rw [← foldl_syncAfter_filter t his, hsync, foldl_syncAfter_filter t hjs]
  · rw [← foldl_relayAfter_filter his, hrelay, foldl_relayAfter_filter hjs]

/-- The idle operations are SNOP and RNOP (R223). -/
theorem isIdle_iff (i : Instr) : isIdle i = true ↔ i = .snop ∨ i = .rnop := by
  cases i <;> simp [isIdle]

/-- An idle operation leaves the window, the events and the relay bits (R112, R144). -/
theorem after_of_isIdle {i : Instr} (h : isIdle i = true) (t : SegTab) :
    (∀ x, syncAfter t x i = x) ∧ ∀ r, relayAfter r i = r := by
  obtain rfl | rfl := (isIdle_iff i).1 h
  · exact ⟨fun x => Prod.ext rfl (List.append_nil x.2), fun _ => rfl⟩
  · exact ⟨fun x => Prod.ext rfl (List.append_nil x.2), fun _ => rfl⟩

/-- Settles O43: both folds ignore the idle operations. -/
theorem idleStepsAreInvisible : Obligations.IdleStepsAreInvisible := by
  intro t run h is s
  have hidle {i : Instr} (hi : (!isIdle i) = false) := after_of_isIdle (by simpa using hi) t
  refine runOps_agree h (fun x => ?_) (fun r => ?_) s
  · exact (foldl_filter_of_ignored (fun _ _ hi => (hidle hi).1) x).symm
  · exact (foldl_filter_of_ignored (fun _ _ hi => (hidle hi).2) r).symm

/-! ### The frame, unit by unit -/

/-- A relay operation leaves the window and outputs nothing (R147). -/
theorem execWith_relayOp {t : SegTab} {i : Instr} {s u : State} (h : execWith t i s = .next u)
    (hi : isRelayOp i = true) : u.win = s.win ∧ u.events = [] := by
  obtain ⟨hwin, hevents, -⟩ := execWith_effect h
  have hunit : i.unit = .relay := by simpa [isRelayOp] using hi
  obtain ⟨hw, he⟩ := window_of_not_sync (i := i) (by simp [isSyncOp, hunit]) (by rintro rfl; cases hi)
    t s.win
  exact ⟨hwin.trans hw, hevents.trans he⟩

/-- A synchronizer operation leaves the relay bits (R147). -/
theorem execWith_syncOp {t : SegTab} {i : Instr} {s u : State} (h : execWith t i s = .next u)
    (hi : isSyncOp i = true) : u.r1 = s.r1 ∧ u.r2 = s.r2 := by
  obtain ⟨-, -, h1, h2⟩ := execWith_effect h
  have hunit : i.unit = .synchronizer := by simpa [isSyncOp] using hi
  have hkeep := relayAfter_of_not_relay (i := i) (by simp [isRelayOp, hunit]) (by rintro rfl; cases hi)
  exact ⟨h1.trans (hkeep _), h2.trans (hkeep _)⟩

/-- A decoder operation shows a byte and changes nothing else but the events of the step before (R95). -/
theorem execWith_decoderOp {t : SegTab} {i : Instr} {s u : State} (h : execWith t i s = .next u)
    (hi : isDecoderOp i = true) : ∃ b, u = s.quiet.showDec t b := by
  obtain ⟨-, hb⟩ | ⟨rfl | rfl, -⟩ | ⟨rfl, -⟩ | ⟨b, rfl, -⟩ | ⟨d1, d2, d3, rfl, -⟩ | ⟨on, rfl, -⟩
    | ⟨rfl, -⟩ := execWith_cases h
  · exact hb
  all_goals cases hi

/-- Settles O35: the window and the events after an operation are functions of the window before it. -/
theorem relaysAndSynchronizerAreIndependent : Obligations.RelaysAndSynchronizerAreIndependent := by
  intro t run h
  obtain rfl := h.eq_execWith
  refine ⟨fun i s v1 v2 => ?_, fun i s u => execWith_relayOp, fun i s u => execWith_syncOp⟩
  obtain ⟨u, hu⟩ := execWith_total t i s
  obtain ⟨u', hu'⟩ := execWith_total t i { s with r1 := v1, r2 := v2 }
  obtain ⟨hwin, hevents, -⟩ := execWith_effect hu
  obtain ⟨hwin', hevents', -⟩ := execWith_effect hu'
  exact ⟨u, u', hu, hu', hevents'.trans hevents.symm, hwin'.trans hwin.symm⟩

/-- An operation leaves what is presented next, and shows a byte at the decoder port only where it is one
of the decoder's. -/
theorem execWith_pending_seg {t : SegTab} {i : Instr} {s u : State} (h : execWith t i s = .next u) :
    u.pending = s.pending ∧ (isDecoderOp i = false → u.seg = none) := by
  obtain ⟨hi, b, rfl⟩ | ⟨-, rfl⟩ | ⟨-, rfl⟩ | ⟨b, -, rfl⟩ | ⟨d1, d2, d3, -, rfl⟩ | ⟨on, -, rfl⟩
    | ⟨-, rfl⟩ := execWith_cases h
  · exact ⟨rfl, fun hn => absurd hi (by simp [hn])⟩
  all_goals exact ⟨rfl, fun _ => rfl⟩

/-- Settles O59: the frame of each unit, and what `execWith_pending_seg` says of the model's own fields. -/
theorem eachUnitChangesOnlyItsOwn : Obligations.EachUnitChangesOnlyItsOwn := by
  intro t run hrun i s u h
  rw [hrun.eq_execWith] at h
  obtain ⟨hpending, hseg⟩ := execWith_pending_seg h
  refine ⟨hpending, fun hi => ?_, fun hi => ?_, fun hi => ?_, ?_⟩
  · obtain ⟨b, rfl⟩ := execWith_decoderOp h hi
    exact ⟨rfl, rfl, rfl⟩
  · obtain ⟨hwin, hevents⟩ := execWith_relayOp h hi
    have hunit : i.unit = .relay := by simpa [isRelayOp] using hi
    exact ⟨hwin, hevents, hseg (by simp [isDecoderOp, hunit])⟩
  · obtain ⟨h1, h2⟩ := execWith_syncOp h hi
    have hunit : i.unit = .synchronizer := by simpa [isSyncOp] using hi
    exact ⟨h1, h2, hseg (by simp [isDecoderOp, hunit])⟩
  · rintro rfl
    cases h
    exact ⟨rfl, rfl⟩

/-- Settles O39: RESET and CLR both empty the window, and only RESET writes the relays. -/
theorem resetDiffersFromClrInTheRelays : Obligations.ResetDiffersFromClrInTheRelays :=
  fun s => ⟨s.quiet.resetBlock, s.quiet.clearWindow, rfl, rfl, rfl, rfl, rfl, rfl, rfl, rfl⟩

/-- Settles O40: the reset state is one that RESET leaves. -/
theorem resetStateHasTheInvariants : Obligations.ResetStateHasTheInvariants :=
  State.reset.resetBlock_inv

/-- Settles O60: `exec_eq_execWith`; the five operations take no table. -/
theorem tableInForceIsOneChoiceOfTheArgument : Obligations.TableInForceIsOneChoiceOfTheArgument := by
  refine ⟨fun i s => by rw [exec_eq_execWith], fun s => ?_,
    fun t s => ⟨rfl, rfl, rfl, rfl, fun v => rfl⟩⟩
  have hstep : StepAt segTab step := .inr ⟨rfl, rfl⟩
  rw [hstep.eq_stepWith]

end Sys2Proof.Machine
end

section
/-! Sessions of few bytes (R124), the sixth byte behind a sentinel (R128, R131), and HF.HEIGHT as its six
PUSHes (R65). -/

namespace Sys2Proof.Machine

/-- A session of at most five bytes reports nothing: none has a whole header before it (R124). -/
theorem streamEvents_of_short (t : SegTab) {bs : List Byte} (h : bs.length ≤ 5) :
    streamEvents t bs = List.replicate bs.length .none := by
  refine streamEvents_eq_replicate t bs fun i hi hh => ?_
  obtain ⟨h5, -⟩ := (headerBefore_iff bs i).1 hh
  omega

/-- Settles O22: a session begun by CLR or RESET outputs `streamEvents`. -/
theorem firstFivePushesReportNone : Obligations.FirstFivePushesReportNone := by
  intro t run h s bs hbs start hstart
  obtain ⟨u, hu, -⟩ := runOps_session h hstart bs s
  exact ⟨u, streamEvents_of_short t hbs ▸ hu⟩

/-- With five bytes in the window, a PUSH classifies the last three where the first three are the header,
and gives NONE where not (R114, R115). -/
theorem pushEvent_of_full_window (t : SegTab) (b0 b1 b2 b3 b4 b5 : Byte) :
    pushEvent t ⟨some b4, some b3, some b2, some b1, some b0⟩ b5
      = if b0 = sentinel ∧ b1 = hfLen ∧ b2 = hfType then classify t b3 b4 b5 else .none := by
  split_ifs with hh
  · obtain ⟨rfl, rfl, rfl⟩ := hh
    exact pushEvent_of_header t b3 b4 b5
  · refine pushEvent_of_not_fires t _ b5 (Bool.eq_false_iff.2 fun hf => hh ?_)
    simpa using (fires_iff _).1 hf

/-- The last of six bytes pushed on any window is classified where the first three are the header. -/
theorem getLast?_pushEvents_six (t : SegTab) (w : Window) (b0 b1 b2 b3 b4 b5 : Byte) :
    (pushEvents t w [b0, b1, b2, b3, b4, b5]).getLast?
      = some (if b0 = sentinel ∧ b1 = hfLen ∧ b2 = hfType then classify t b3 b4 b5 else .none) :=
  congrArg some (pushEvent_of_full_window t b0 b1 b2 b3 b4 b5)

/-- Settles O25: the run outputs `pushEvents`, whose sixth is that of the full window. -/
theorem everySentinelGetsItsOwnTest : Obligations.EverySentinelGetsItsOwnTest := by
  intro t run h s ln ty d1 d2 d3
  obtain ⟨u, hu, -⟩ := runOps_pushes h [0x9B#8, ln, ty, d1, d2, d3] s
  refine ⟨u, _, hu, rfl, (getLast?_pushEvents_six t s.win _ ln ty d1 d2 d3).trans ?_⟩
  simp [sentinel, hfLen, hfType]

/-- HF.HEIGHT under every meaning at a table clears the outputs and pushes its six bytes (R65). -/
theorem MeaningAt.hfHeight {t : SegTab} {run : Meaning} (h : MeaningAt t run) (d1 d2 d3 : Byte)
    (s : State) : run (.hfHeight d1 d2 d3) s
      = .next (s.quiet.pushBytes t [sentinel, hfLen, hfType, d1, d2, d3]) := by
  rcases h with rfl | ⟨rfl, rfl⟩ <;> rfl

/-- Settles O27: the row and the six PUSHes both output `pushEvents` of the frame, and its sixth is that
of the full window. -/
theorem frameRowActsAsItsSixPushes : Obligations.FrameRowActsAsItsSixPushes := by
  intro t run h d1 d2 d3 s
  obtain ⟨u, hu, hwin⟩ := runOps_pushes h [sentinel, hfLen, hfType, d1, d2, d3] s
  refine ⟨u, _, hu, h.hfHeight d1 d2 d3 s, hwin, ?_⟩
  rw [getLast?_pushEvents_six, if_pos ⟨rfl, rfl, rfl⟩]

end Sys2Proof.Machine
end

section
/-! The cycle at the pins: its operations (R28, R47, R185), and the outputs of an event that carries no
report (R120). -/

namespace Sys2Proof.Machine

/-- CLR under every meaning at a table clears the outputs and empties the window (R111). -/
theorem MeaningAt.clr {t : SegTab} {run : Meaning} (h : MeaningAt t run) (s : State) :
    run .clr s = .next s.quiet.clearWindow := by
  rcases h with rfl | ⟨rfl, rfl⟩ <;> rfl

/-- RESET under every meaning at a table clears the outputs and resets the block (R210). -/
theorem MeaningAt.reset {t : SegTab} {run : Meaning} (h : MeaningAt t run) (s : State) :
    run .reset s = .next s.quiet.resetBlock := by
  rcases h with rfl | ⟨rfl, rfl⟩ <;> rfl

/-- The operation the synchronizer's pins select does the synchronizer's part of the cycle (R122). -/
theorem MeaningAt.decodeSP_sp {t : SegTab} {run : Meaning} (h : MeaningAt t run) (p : Pins)
    (s : State) : run (decodeSP p.sp) s = .next (cycleSync t p s.quiet) := by
  rw [Machine.decodeSP_sp, cycleSync]
  split_ifs
  · exact h.clr s
  · exact h.push p.rxData s
  · exact h.snop s

/-- The operation the relay driver's pins select does the relay driver's part of the cycle (R141). -/
theorem MeaningAt.decodeRP_rp {t : SegTab} {run : Meaning} (h : MeaningAt t run) (p : Pins)
    (s : State) : run (decodeRP p.rp) s = .next (cycleRelay p s.quiet) := by
  rw [Machine.decodeRP_rp, cycleRelay]
  split_ifs
  · exact h.rset p.relayOn s
  · exact h.rnop s

/-- The synchronizer's part of a cycle does not read what the decoder port shows. -/
theorem cycleSync_of_seg (t : SegTab) (p : Pins) (s : State) (g : Option Decoded) :
    cycleSync t p { s with seg := g } = { cycleSync t p s with seg := g } := by
  unfold cycleSync
  split_ifs <;> rfl

/-- The relay driver's part of a cycle does not read the outputs. -/
theorem cycleRelay_of_outputs (p : Pins) (s : State) (e : List Event) (g : Option Decoded) :
    cycleRelay p { s with events := e, seg := g } = { cycleRelay p s with events := e, seg := g } := by
  unfold cycleRelay
  split_ifs <;> rfl

/-- Without `rst` a cycle is the relay driver's part on the synchronizer's, with the outputs of the latter
and DEC of `seg_in`. -/
theorem cycle_of_not_rst (t : SegTab) {p : Pins} (s : State) (h : p.rst = false) :
    cycle t p s = { cycleRelay p (cycleSync t p s.quiet).quiet with
      events := (cycleSync t p s.quiet).events, seg := some (decSeg t p.segIn) } := by
  have hsync : cycleSync t p (s.quiet.showDec t p.segIn)
      = { cycleSync t p s.quiet with seg := some (decSeg t p.segIn) } := cycleSync_of_seg t p s.quiet _
  rw [cycle, h, hsync]
  exact cycleRelay_of_outputs p (cycleSync t p s.quiet).quiet _ _

/-- Settles O44: with `rst` the one operation is RESET, without it the two operations do the two parts of
the cycle. -/
theorem cycleIsTheOperationsOfItsPins : Obligations.CycleIsTheOperationsOfItsPins := by
  intro t run h p s
  cases hr : p.rst with
  | true =>
    refine ⟨s.quiet.resetBlock, [], ?_, cycle_of_rst t s hr⟩
    rw [Pins.ops, if_pos hr, runOps_cons_next run _ _ _ _ (h.reset s)]
    rfl
  | false =>
    refine ⟨_, _, ?_, cycle_of_not_rst t s hr⟩
    rw [Pins.ops, if_neg (by simp [hr]), runOps_cons_next run _ _ _ _ (h.decodeSP_sp p s),
      runOps_cons_next run _ _ _ _ (h.decodeRP_rp p _)]
    simp

/-- An event other than HEIGHT carries no report, and its kind is not 1 (R70, R120). -/
theorem report_kind_of_ne_height {e : Event} (h : ∀ r, e ≠ .height r) :
    eventReport e = none ∧ eventKind e ≠ 1#2 := by
  cases e with
  | height r => exact absurd rfl (h r)
  | none => exact ⟨rfl, by decide⟩
  | blank => exact ⟨rfl, by decide⟩
  | invalid => exact ⟨rfl, by decide⟩

/-- The event pins of a cycle whose event carries no report: its kind, and 0 elsewhere (R120). -/
theorem outputs_of_no_report {t : SegTab} {p : Pins} {s : State}
    (h : eventReport (cycleEvent t p s) = none) :
    (outputs t p s).evtKind = eventKind (cycleEvent t p s)
      ∧ (outputs t p s).evtN = 0#10 ∧ (outputs t p s).evtDp = false
      ∧ (outputs t p s).evtG1 = 0#4 ∧ (outputs t p s).evtG2 = 0#4 ∧ (outputs t p s).evtG3 = 0#4
      ∧ (outputs t p s).evtP1 = false ∧ (outputs t p s).evtP2 = false
      ∧ (outputs t p s).evtP3 = false := by
  simp [outputs, h]

/-- Settles O19: an event other than HEIGHT carries no report, and its kind is its own code. -/
theorem otherEventsCarryNoData : Obligations.OtherEventsCarryNoData := by
  intro t p s hne
  obtain ⟨hreport, hnot⟩ := report_kind_of_ne_height hne
  obtain ⟨hkind, hN, hdp, hg1, hg2, hg3, hp1, hp2, hp3⟩ := outputs_of_no_report hreport
  rw [hkind]
  refine ⟨hnot, hN, hdp, hg1, hg2, hg3, hp1, hp2, hp3, fun hacc => ?_⟩
  rw [← cycleEvent_of_accepts t p s hacc]
  cases he : cycleEvent t p s with
  | height r => exact absurd he (hne r)
  | none => rfl
  | blank => rfl
  | invalid => rfl

end Sys2Proof.Machine
end

section
/-! What a step runs (R155, `30_encoding.md` section 1). -/

namespace Sys2Proof.Machine

/-- A word that decodes to an operation runs it. -/
theorem runWord_of_ok {t : SegTab} {w : OpWord} {i : Instr} (h : decodeWith t w = .ok i)
    (run : Meaning) (s : State) : runWord t run w s = run i s := by
  rw [runWord, h]

/-- Six bytes that are no height frame are pushed one after the other (R67, R129). -/
theorem runWord_of_not_frame {w : FrameWord}
    (h : ¬ (w.extractLsb' 40 8 = sentinel ∧ w.extractLsb' 32 8 = hfLen ∧ w.extractLsb' 24 8 = hfType))
    (t : SegTab) (run : Meaning) (s : State) :
    runWord t run (.hf w) s = .next (s.quiet.pushBytes t (frameBytes w)) := by
  have hd : decodeWith t (.hf w) = .error (.notHeightFrame w) := if_neg h
  rw [runWord, hd]

/-- Six bytes that are no height frame, pushed on any window, end in NONE (R67). -/
theorem getLast?_pushEvents_of_not_frame {w : FrameWord}
    (h : ¬ (w.extractLsb' 40 8 = sentinel ∧ w.extractLsb' 32 8 = hfLen ∧ w.extractLsb' 24 8 = hfType))
    (t : SegTab) (win : Window) :
    (pushEvents t win (frameBytes w)).getLast? = some .none := by
  rw [frameBytes, getLast?_pushEvents_six, if_neg h]

/-- Settles O56, by what is presented: a word that decodes by `runWord_of_ok`, six bytes that are no frame
by `runWord_of_not_frame`, the other moves by the branches of the step. -/
theorem stepRunsWhatIsPresented : Obligations.StepRunsWhatIsPresented := by
  refine ⟨fun w i rest s h => runWord_of_ok h exec _, fun t w i rest s h => runWord_of_ok h (execWith t) _,
    fun t st hst => ?_⟩
  obtain rfl := hst.eq_stepWith
  refine ⟨fun p rest s => rfl, fun rest s => rfl, fun s => rfl, fun w rest s h => ?_⟩
  obtain ⟨h1, h2, hpending, -⟩ :=
    State.pushBytes_frame t (frameBytes w) (State.quiet { s with pending := rest })
  refine ⟨_, runWord_of_not_frame h t (execWith t) _, hpending, ?_, ?_, h1, h2, State.pushBytes_win ..⟩
  · exact State.pushBytes_events_length t (frameBytes w) _
  · rw [State.pushBytes_events]
    exact getLast?_pushEvents_of_not_frame h t s.win

/-- A table word that reads as an operation is a port word that decodes to it. -/
theorem decodeTableWord_eq_some {nbits w : Nat} {i : Instr} (h : decodeTableWord nbits w = some i) :
    ∃ ow, tableOpWord nbits w = some ow ∧ decode ow = .ok i := by
  unfold decodeTableWord at h
  split at h
  · next ow how =>
    cases hd : decode ow with
    | ok j =>
      rw [hd] at h
      cases h
      exact ⟨ow, how, hd⟩
    | error r =>
      rw [hd] at h
      cases h
  · cases h

/-- Settles O57: the word is presented first, so the step runs what it decodes to. -/
theorem presentedTableWordRunsNext : Obligations.PresentedTableWordRunsNext := by
  intro s nbits w i h
  obtain ⟨ow, how, hdecode⟩ := decodeTableWord_eq_some h
  rw [State.withFetchWord, how]
  exact runWord_of_ok hdecode exec s

end Sys2Proof.Machine
end

section
/-! The text form of an operation sequence (R76, R77). -/

namespace Sys2Proof.Machine

/-- Tokens that are bytes, one by one, are read as the list of the bytes (R77 BYTES). -/
theorem mapM_parseByte {toks : List (List Char)} {xs : List Byte}
    (h : List.Forall₂ (fun a x => parseByte a = some x) toks xs) :
    toks.mapM parseByte = some xs := by
  induction h with
  | nil => rfl
  | cons hx _ ih => rw [List.mapM_cons, hx, ih]; rfl

/-- A digit character stands for less than sixteen. -/
theorem charDigit_lt {c : Char} {x : Nat} (h : charDigit c = some x) : x < 16 := by
  simp only [charDigit] at h
  split_ifs at h <;> cases h <;> omega

/-- `0x` and two digit characters are the byte of the two hexadecimal digits (R76). -/
theorem parseByte_hex {c d : Char} {x y : Nat} (hc : charDigit c = some x) (hd : charDigit d = some y) :
    parseByte ['0', 'x', c, d] = some (BitVec.ofNat 8 (16 * x + y)) := by
  have hx := charDigit_lt hc
  have hy := charDigit_lt hd
  have hnumber : parseNumber ['0', 'x', c, d] = some (16 * x + y) := by
    simp [parseNumber, digitsIn, hc, hd, hx, hy]
  rw [parseByte, hnumber]
  exact if_pos (by omega)

/-- The tokens of a line end where a comment begins (R76). -/
theorem tokens_comment (line comment cur : List Char) :
    tokens (line ++ '#' :: comment) cur = tokens line cur := by
  induction line generalizing cur with
  | nil => rfl
  | cons c cs ih => simp only [List.cons_append, tokens, ih]

/-- In an admissible table the byte that decodes to a digit with the point off is `E` of the digit (R77). -/
theorem digitByte_of_decSeg {t : SegTab} (ht : t.Admissible) {e : Byte} {n : Fin 10}
    (h : decSeg t e = ⟨.digit n, false⟩) : digitByte t n = e := by
  obtain ⟨hdigit, hpoint⟩ := Decoded.mk.inj h
  rw [digitByte, ← eq_rowPattern ht hdigit, ← hpoint, segByte_fields]

/-- The number of `HEIGHT abc` and `HEIGHT ab.c` is a frame of its digits' bytes, with the point on the tens
byte where one is written (R77). -/
theorem heightOps_digits (t : SegTab) {a b c : Char} {x y z : Fin 10}
    (ha : parseDecimalDigit a = some x) (hb : parseDecimalDigit b = some y)
    (hc : parseDecimalDigit c = some z) :
    heightOps t [a, b, c] = some (frameOps (digitByte t x) (digitByte t y) (digitByte t z))
    ∧ heightOps t [a, b, '.', c]
      = some (frameOps (digitByte t x) (digitByte t y + 0x80#8) (digitByte t z)) := by
  simp only [heightOps, ha, hb, hc, and_self]

/-- Settles O55: each kind of line by its row of `lineOps`, its operands by the lemmas above; the closed
lines are evaluated. -/
theorem stimulusLinesExpand : Obligations.StimulusLinesExpand := by
  refine ⟨fun t => ⟨rfl, rfl, rfl, rfl, rfl, rfl, rfl, rfl⟩, fun t a x h => ?_, fun t toks xs h => ?_,
    fun t a b c x y z ha hb hc => ?_, fun t ht a b c x y z e1 e2 e3 ha hb hc h1 h2 h3 => ?_,
    fun c d x y => parseByte_hex, by decide, fun t line comment => ?_, by decide, by decide⟩
  · simp only [lineOps, h, Option.map_some, and_self]
  · simp only [lineOps, mapM_parseByte h, Option.map_some, bytesOps, pushes]
  · simp only [lineOps, ha, hb, hc]
    rfl
  · obtain ⟨hplain, hpoint⟩ := heightOps_digits t ha hb hc
    rw [digitByte_of_decSeg ht h1, digitByte_of_decSeg ht h2, digitByte_of_decSeg ht h3] at hplain hpoint
    exact ⟨hplain, hpoint⟩
  · rw [parseLine, parseLine, tokens_comment]

end Sys2Proof.Machine
end
